-- ==== Sys2Proof/Word.lean ====
section
/-! DEFINITION. The one word of the block: a byte (spec/00_scope.md R7, R8). -/

namespace Sys2Proof

/-- A byte: an integer in 0..255, bit 7 the most significant (R8). Every wire field and every buffer
element is one byte (R7). -/
abbrev Byte := BitVec 8

end Sys2Proof
end

