-- ==== Sys2Proof/Config.lean ====
section
/-! DEFINITION. The configuration of the block (spec/00_scope.md R6, spec/10_state.md R29 to R35), the example
configuration EX of spec/95_test_vectors.md, and the one value the spec leaves undefined. -/

namespace Sys2Proof

/-- The policy for a reply's destination byte (R34, R151, WF7). -/
inductive ReplyDst where
  /-- The inbound packet's source. -/
  | sender
  /-- A fixed byte. -/
  | fixed (b : Byte)
  deriving DecidableEq, Repr

/-- A configuration: what RESET loads and no other operation writes (R35). The names are those of R6 in lower
camel case. EMU_ADDR is fixed by R30 and is the constant `Config.emuAddr`. -/
structure Config where
  /-- `DEV[0..255]`: bit `c` is set iff `c` is a recognized device code (R29). OPEN (D24). -/
  dev : BitVec 256
  /-- The responder command table (R31). OPEN (D12). -/
  cmdPoll : List Byte
  cmdPower : List Byte
  cmdMode : List Byte
  cmdNow : List Byte
  cmdChUp : List Byte
  cmdChDown : List Byte
  cmdSat : List Byte
  /-- The payload of the announce reply (R32). OPEN (D16). -/
  announce : List Byte
  /-- The bytes that open each status reply's payload (R32). OPEN (D15). -/
  pfxPower : List Byte
  pfxMode : List Byte
  pfxNow : List Byte
  pfxChUp : List Byte
  pfxChDown : List Byte
  pfxSat : List Byte
  /-- The reply texts, as bytes (R33). OPEN (D17). -/
  nowText : List Byte
  satText : List Byte
  /-- Option fields (R34). -/
  replyDst : ReplyDst
  acceptLen1 : Bool
  acceptBroadcast : Bool
  bufCap : Nat
  /-- The emulator state at reset (R26 to R28). OPEN (D19). -/
  initChannel : Int
  initBand : Int
  initPreset : Int
  deriving DecidableEq, Repr

/-- `EMU_ADDR`, the device code of the emulated satellite-radio device: fixed at 0x73 (R30). -/
def Config.emuAddr : Byte := 0x73

/-- The broadcast destination code (R75). -/
def Config.broadcastAddr : Byte := 0xFF

/-- The longest payload a frame carries (R71). -/
def Config.maxPayload : Nat := 253

/-- The example configuration EX of spec/95_test_vectors.md. "The values below are not hardware values": it is
the configuration `State.reset` holds (log 2, DESIGN CHOICE, unsafe), and no statement rests on it. -/
def Config.ex : Config where
  dev := (1#256 <<< 0x68) ||| (1#256 <<< 0x73)
  cmdPoll := [0xC1]
  cmdPower := [0xC2]
  cmdMode := [0xC3]
  cmdNow := [0xC4]
  cmdChUp := [0xC5]
  cmdChDown := [0xC6]
  cmdSat := [0xC7]
  announce := [0xD0]
  pfxPower := [0xE0, 0x01]
  pfxMode := [0xE0, 0x02]
  pfxNow := [0xE0, 0x03]
  pfxChUp := [0xE0, 0x04]
  pfxChDown := [0xE0, 0x05]
  pfxSat := [0xE0, 0x06]
  nowText := [0x20, 0x20, 0x20, 0x20]
  satText := [0x53, 0x41, 0x54]
  replyDst := .sender
  acceptLen1 := true
  acceptBroadcast := false
  bufCap := 258
  initChannel := 1
  initBand := 1
  initPreset := 1

/-- FREE VALUE: what XCHK answers on a sequence outside its domain. R101: "XCHK is not defined for shorter `f`".
No body, so nothing can be proved of its values (log 11). PF never asks for it (R110). -/
opaque Config.xchkShort : List Byte → Bool

end Sys2Proof
end

