-- ==== Sys2Proof/Machine/Checksum.lean ====
section
/-! DEFINITION. CV, the XOR checksum validator (spec/40_checksum.md R100, R101). Pure functions: CV holds no state. -/

namespace Sys2Proof.Machine

/-- `XSUM(s)`: the XOR of all the bytes of `s`, starting from 0x00 (R100). -/
def xsum (s : List Byte) : Byte := s.foldl (fun acc b => acc ^^^ b) 0

/-- The length byte `L = f[1]` as a number (R70). Read only where `2 ≤ |f|`. -/
def lenByte (f : List Byte) : Nat := (f.getD 1 0).toNat

/-- Where XCHK is defined: `|f| >= 2 and |f| >= f[1] + 2` (R101). -/
def xchkDefined (f : List Byte) : Bool := decide (2 ≤ f.length) && decide (lenByte f + 2 ≤ f.length)

/-- `XCHK(f)` on its domain: `XSUM(f[0 .. L]) == f[L + 1]` (R101). -/
def xchk (f : List Byte) : Bool := xsum (f.take (lenByte f + 1)) == f.getD (lenByte f + 1) 0

/-- What CV answers for any byte sequence: XCHK where it is defined, the free value elsewhere (R101, log 11). -/
def xchkAnswer (f : List Byte) : Bool := if xchkDefined f then xchk f else Config.xchkShort f

end Sys2Proof.Machine
end

