-- ==== Sys2Proof/Machine/Operands.lean ====
section
/-! DEFINITION. The operand forms: the fields of a frame (spec/30_encoding.md R70 to R72), the address test
and the reply destination (spec/42_responder.md R140, R151), and the conversion `byte(v)` (spec/00_scope.md R8). -/

namespace Sys2Proof.Machine

/-- A frame: `|f| = L + 2` with `1 <= L` (R70, R71, R73). The checksum is XCHK's business, not the shape's. -/
def isFrame (f : List Byte) : Bool := decide (1 ≤ lenByte f) && f.length == lenByte f + 2

/-- `source = f[0]` (R72). -/
def source (f : List Byte) : Byte := f.getD 0 0

/-- `destination = f[2]`, only when `L >= 2` (R72). -/
def destination (f : List Byte) : Byte := f.getD 2 0

/-- `payload = f[3 .. L]`: `L - 2` bytes, `[]` when `L <= 2` (R72). -/
def payload (f : List Byte) : List Byte := (f.drop 3).take (lenByte f - 2)

/-- `checksum = f[L + 1]` (R72). -/
def checksum (f : List Byte) : Byte := f.getD (lenByte f + 1) 0

/-- `DEV[c] = 1` (R29). -/
def recognized (cfg : Config) (c : Byte) : Bool := cfg.dev.getLsbD c.toNat

/-- The address test of `ER.handle`: `d == EMU_ADDR`, or a broadcast where the option accepts it (R140). -/
def addressed (cfg : Config) (f : List Byte) : Bool :=
  destination f == Config.emuAddr || (cfg.acceptBroadcast && destination f == Config.broadcastAddr)

/-- `replyDst(f)`: the inbound packet's source when `REPLY_DST = SENDER`, and the fixed byte otherwise (R151). -/
def replyDst (cfg : Config) (f : List Byte) : Byte :=
  match cfg.replyDst with
  | .sender => source f
  | .fixed b => b

/-- `byte(v)`: defined only for `0 <= v <= 255`, never a wrapped value (R8). -/
def toByte (v : Int) : Option Byte := if 0 ≤ v ∧ v ≤ 255 then some (BitVec.ofNat 8 v.toNat) else none

end Sys2Proof.Machine
end

