-- ==== Sys2Proof/Machine/Boot.lean ====
section
/-! DEFINITION. The named checks a configuration must pass before RESET is defined for it
(spec/70_reset_and_hazards.md R202). -/

namespace Sys2Proof.Machine

/-- The named checks of R202. WF7 (`REPLY_DST` is SENDER or one byte) holds by the type `ReplyDst`. -/
inductive ConfigCheck where
  | wf1
  | wf2
  | wf3
  | wf4
  | wf5
  | wf6
  deriving DecidableEq, Repr

/-- The seven command fields (R31). -/
def commandFields (cfg : Config) : List (List Byte) :=
  [cfg.cmdPoll, cfg.cmdPower, cfg.cmdMode, cfg.cmdNow, cfg.cmdChUp, cfg.cmdChDown, cfg.cmdSat]

/-- For each status kind, what its reply carries beside the two state bytes: `PFX_k` and `TEXT_k`, where TEXT is
`NOW_TEXT` for NOW, `SAT_TEXT` for SAT and `[]` otherwise (R202, WF4). -/
def statusFields (cfg : Config) : List (List Byte × List Byte) :=
  [(cfg.pfxPower, []), (cfg.pfxMode, []), (cfg.pfxNow, cfg.nowText), (cfg.pfxChUp, []), (cfg.pfxChDown, []),
    (cfg.pfxSat, cfg.satText)]

/-- Whether a configuration passes one named check (R202). -/
def passes (cfg : Config) : ConfigCheck → Bool
  | .wf1 => decide (commandFields cfg).Nodup
  | .wf2 => (commandFields cfg).all fun c => c.length ≤ Config.maxPayload
  | .wf3 => cfg.announce.length ≤ Config.maxPayload
  | .wf4 => (statusFields cfg).all fun p => p.1.length + 2 + p.2.length ≤ Config.maxPayload
  | .wf5 => decide (0 ≤ cfg.initBand ∧ cfg.initBand ≤ 15 ∧ 0 ≤ cfg.initPreset ∧ cfg.initPreset ≤ 15)
  | .wf6 => decide (257 ≤ cfg.bufCap)

/-- The checks in the order of R202. -/
def configChecks : List ConfigCheck := [.wf1, .wf2, .wf3, .wf4, .wf5, .wf6]

/-- The first check a configuration fails, if any (R202). -/
def failedCheck (cfg : Config) : Option ConfigCheck := configChecks.find? fun c => !passes cfg c

/-- A well-formed configuration: it passes every named check (R202). -/
def configOk (cfg : Config) : Bool := (failedCheck cfg).isNone

end Sys2Proof.Machine
end

