-- ==== Sys2Proof/Machine/Flags.lean ====
section
/-! DEFINITION. The block has no status-flag register (spec/10_state.md R37). What stands here is what the spec has
instead: the cause codes of dropped bytes and the phases of the framer with their encodings (R23). -/

namespace Sys2Proof.Machine

/-- Why a byte was dropped (R37). Cause codes appear in events only; no operation reads one back. -/
inductive Cause where
  /-- FramingNoise: "zero-length field". -/
  | zeroLen
  /-- FramingNoise: "unrecognized source byte". -/
  | unknownSrc
  /-- ChecksumMismatch. -/
  | badChecksum
  /-- FramingNoise: length byte 1 rejected, only when `ACCEPT_LEN1 = 0` (R126). -/
  | lenOne
  deriving DecidableEq, Repr

/-- The numeric cause codes (R37, D7). -/
def Cause.code : Cause → Nat
  | .zeroLen => 1
  | .unknownSrc => 2
  | .badChecksum => 3
  | .lenOne => 4

/-- The cause DROP_ZERO_LEN gives: `ZERO_LEN if BufRead(1) == 0x00 else LEN_ONE` (R114). -/
def zeroLenCause (len : Byte) : Cause := if len = 0 then .zeroLen else .lenOne

/-- The states of the framer state machine, a function of `buf` (R23). -/
inductive Phase where
  /-- PF can make no progress without more input. -/
  | awaitingBytes
  /-- A valid frame stands at the head of `buf`. -/
  | extractedPacket
  /-- PF's next step drops `buf[0]`. -/
  | resyncing
  deriving DecidableEq, Repr

/-- The encoding of the phase for a model that stores it: 0, 1, 2 (R23, D5). -/
def Phase.code : Phase → Nat
  | .awaitingBytes => 0
  | .extractedPacket => 1
  | .resyncing => 2

end Sys2Proof.Machine
end

