-- ==== Sys2Proof/Machine/Tables.lean ====
section
/-! DEFINITION. The two decode tables of the block: PF's action table (spec/30_encoding.md R76,
spec/41_framer.md R110) and ER's command table (spec/30_encoding.md R77, spec/42_responder.md R140). Both are
functions of the configuration and the bytes, and write nothing. -/

namespace Sys2Proof.Machine

/-- PF's actions, in the order of R76. -/
inductive Action where
  | waitShort
  | dropZeroLen
  | dropUnknownSrc
  | waitIncomplete
  | extract
  | dropBadChecksum
  deriving DecidableEq, Repr

/-- ER's command kinds, in the order of R77. -/
inductive Kind where
  | ignore
  | poll
  | power
  | mode
  | now
  | chUp
  | chDown
  | sat
  | unhandled
  deriving DecidableEq, Repr

/-- `classify(buf)`: PF's next action. The tests are evaluated in exactly this order (R110). -/
def classify (cfg : Config) : List Byte → Action
  | s :: len :: rest =>
    if len = 0 then .dropZeroLen
    else if len = 1 ∧ cfg.acceptLen1 = false then .dropZeroLen
    else if recognized cfg s = false then .dropUnknownSrc
    else if (s :: len :: rest).length < len.toNat + 2 then .waitIncomplete
    else if xchk (s :: len :: rest) = true then .extract
    else .dropBadChecksum
  | _ => .waitShort

/-- The phase an action stands for (R23). -/
def Action.phase : Action → Phase
  | .waitShort => .awaitingBytes
  | .waitIncomplete => .awaitingBytes
  | .extract => .extractedPacket
  | .dropZeroLen => .resyncing
  | .dropUnknownSrc => .resyncing
  | .dropBadChecksum => .resyncing

/-- `phase(buf)` (R23). PF is quiescent iff it is `awaitingBytes` (R120). -/
def phase (cfg : Config) (buf : List Byte) : Phase := (classify cfg buf).phase

/-- The command kind of an addressed payload: exact match against the seven command fields, in the order of R77
rows 2 to 9 (R140). -/
def commandKind (cfg : Config) (p : List Byte) : Kind :=
  if p = cfg.cmdPoll then .poll
  else if p = cfg.cmdPower then .power
  else if p = cfg.cmdMode then .mode
  else if p = cfg.cmdNow then .now
  else if p = cfg.cmdChUp then .chUp
  else if p = cfg.cmdChDown then .chDown
  else if p = cfg.cmdSat then .sat
  else .unhandled

/-- The kind `ER.handle` selects for a frame: IGNORE where `L < 2` or the frame is not addressed, else by the
whole payload (R140). The source byte is not tested (D10). -/
def kindOf (cfg : Config) (f : List Byte) : Kind :=
  if lenByte f < 2 then .ignore
  else if addressed cfg f = false then .ignore
  else commandKind cfg (payload f)

end Sys2Proof.Machine
end

