-- ==== Sys2Proof/Syntax.lean ====
section
/-! DEFINITION. The operations of the block, one constructor per row of spec/opcode_table.json, in the table's
order (spec/30_encoding.md R80). -/

namespace Sys2Proof

/-- The "instructions" of this hardware are the block's operations (R21): host input steps, PF's actions, ER's
command kinds, and the combinational functions of CV and PE. An ER kind carries the inbound frame it answers. -/
inductive Instr where
  /-- XSUM(s), the XOR checksum (R100). -/
  | xsum (s : List Byte)
  /-- XCHK(f), validation of a candidate frame (R101). -/
  | xchk (f : List Byte)
  /-- PUSH(b), one byte arrives from the transport (R111). -/
  | push (b : Byte)
  /-- FSTEP, one iteration of the resynchronization loop (R112). -/
  | fstep
  /-- WAIT_SHORT (R113). -/
  | waitShort
  /-- DROP_ZERO_LEN (R114). -/
  | dropZeroLen
  /-- DROP_UNKNOWN_SRC (R115). -/
  | dropUnknownSrc
  /-- WAIT_INCOMPLETE (R116). -/
  | waitIncomplete
  /-- EXTRACT (R117). -/
  | extract
  /-- DROP_BAD_CHECKSUM (R118). -/
  | dropBadChecksum
  /-- FEED(s), the host's pseudo-operation (R119). -/
  | feed (s : List Byte)
  /-- POLL (R141). -/
  | poll (f : List Byte)
  /-- POWER (R142). -/
  | power (f : List Byte)
  /-- MODE (R143). -/
  | mode (f : List Byte)
  /-- NOW (R144). -/
  | now (f : List Byte)
  /-- CH_UP (R145). -/
  | chUp (f : List Byte)
  /-- CH_DOWN (R146). -/
  | chDown (f : List Byte)
  /-- SAT (R147). -/
  | sat (f : List Byte)
  /-- UNHANDLED (R148). -/
  | unhandled (f : List Byte)
  /-- IGNORE (R149). -/
  | ignore (f : List Byte)
  /-- ENCODE(src, dst, cmd, text) (R170). -/
  | encode (src dst : Byte) (cmd text : List Byte)
  /-- STOP (R192). -/
  | stop
  /-- RESET(cfg) (R200). -/
  | reset (cfg : Config)
  deriving DecidableEq, Repr

end Sys2Proof
end

