-- ==== Sys2Proof/WellFormed.lean ====
section
/-! DEFINITION. When an operation is well-formed under a configuration: its operand is in the domain the spec gives
it, and its decode row exists under that configuration. -/

namespace Sys2Proof

/-- A valid frame, as PF extracts them: the shape of R70 and the checksum invariant of R103. -/
def validFrame (f : List Byte) : Bool := Machine.isFrame f && Machine.xchk f

/-- A valid frame whose row in ER's decode table is `k` (R77). -/
def validFrameOf (cfg : Config) (k : Machine.Kind) (f : List Byte) : Bool :=
  validFrame f && Machine.kindOf cfg f == k

/-- The first device code, counting up from `start`, whose entry of `DEV` is `bit` (R29). -/
def firstCodeFrom (cfg : Config) (bit : Bool) : Nat → Nat → Option Byte
  | 0, _ => none
  | n + 1, start =>
    if Machine.recognized cfg (BitVec.ofNat 8 start) = bit then some (BitVec.ofNat 8 start)
    else firstCodeFrom cfg bit n (start + 1)

/-- The least code whose entry of `DEV` is `bit`, if there is one (R29). -/
def firstCode (cfg : Config) (bit : Bool) : Option Byte := firstCodeFrom cfg bit 256 0

/-- Well-formed operations. XCHK's operand is in its domain (R101); ENCODE's payload fits the length byte (R170); an
ER kind's operand is a valid frame that its row selects (R77); a PF action whose row asks for a recognized or an
unrecognized source byte has such a code in `DEV` (R76); RESET's configuration passes R202. -/
def wellFormed (cfg : Config) : Instr → Bool
  | .xsum _ => true
  | .xchk f => Machine.xchkDefined f
  | .push _ => true
  | .fstep => true
  | .waitShort => true
  | .dropZeroLen => true
  | .dropUnknownSrc => (firstCode cfg false).isSome
  | .waitIncomplete => (firstCode cfg true).isSome
  | .extract => (firstCode cfg true).isSome
  | .dropBadChecksum => (firstCode cfg true).isSome
  | .feed _ => true
  | .poll f => validFrameOf cfg .poll f
  | .power f => validFrameOf cfg .power f
  | .mode f => validFrameOf cfg .mode f
  | .now f => validFrameOf cfg .now f
  | .chUp f => validFrameOf cfg .chUp f
  | .chDown f => validFrameOf cfg .chDown f
  | .sat f => validFrameOf cfg .sat f
  | .unhandled f => validFrameOf cfg .unhandled f
  | .ignore f => validFrameOf cfg .ignore f
  | .encode _ _ cmd text => cmd.length + text.length ≤ Config.maxPayload
  | .stop => true
  | .reset c => Machine.configOk c

end Sys2Proof
end

