-- ==== Sys2Proof/Decode.lean ====
section
/-! DEFINITION. Decoding: bits to operations, by the three encodings the opcode table gives, and the encoder. The
rows whose encoding is "none" (XSUM, XCHK, FSTEP, FEED, ENCODE, STOP, RESET) are never read from bits (log 7). -/

namespace Sys2Proof

/-- Where bits are presented to the block: the table's "format" column. -/
inductive Port where
  /-- The transport line: "host input step", one byte (R111). -/
  | line
  /-- The pending buffer: "PF decode row n (buf)" (R76). -/
  | head
  /-- An extracted frame: "ER decode row n (frame)" (R77). -/
  | frame
  deriving DecidableEq, Repr

/-- Why bits are no operation at a port. -/
inductive DecodeError where
  /-- The line delivers one byte at a time (R111); raised for any other number of bytes. Safe. -/
  | notOneByte (n : Nat)
  /-- ER is handed whole frames only (R117); raised for bytes that are not of the shape of R70. Safe. -/
  | notAFrame
  deriving DecidableEq, Repr

/-- The operation a row of PF's action table stands for (R76). -/
def actionInstr : Machine.Action → Instr
  | .waitShort => .waitShort
  | .dropZeroLen => .dropZeroLen
  | .dropUnknownSrc => .dropUnknownSrc
  | .waitIncomplete => .waitIncomplete
  | .extract => .extract
  | .dropBadChecksum => .dropBadChecksum

/-- The operation a row of ER's command table stands for, on the frame it was read from (R77). -/
def kindInstr : Machine.Kind → List Byte → Instr
  | .ignore, f => .ignore f
  | .poll, f => .poll f
  | .power, f => .power f
  | .mode, f => .mode f
  | .now, f => .now f
  | .chUp, f => .chUp f
  | .chDown, f => .chDown f
  | .sat, f => .sat f
  | .unhandled, f => .unhandled f

/-- The operation the bytes at a port stand for. A byte on the line is PUSH of it (R111); the pending buffer selects
a row of R76, every one of them: "No input byte sequence is rejected as an error" (R78); a frame selects a row of
R77. -/
def decode (cfg : Config) : Port → List Byte → Except DecodeError Instr
  | .line, bs =>
    match bs with
    | [b] => .ok (.push b)
    | _ => .error (.notOneByte bs.length)
  | .head, buf => .ok (actionInstr (Machine.classify cfg buf))
  | .frame, f => if Machine.isFrame f then .ok (kindInstr (Machine.kindOf cfg f) f) else .error .notAFrame

/-- The bytes of a word of `nbits` bits, first byte from bits 7..0 (the numbering of spec/opcode_table.json). -/
def wordBytes (nbits w : Nat) : List Byte :=
  (List.range ((nbits + 7) / 8)).map fun k => BitVec.ofNat 8 (w >>> (8 * k))

/-- Where a word of the opcode table is presented: 8 bits are the row PUSH ("bbbbbbbb"), any other number of bits
is the contents of the pending buffer (log 8). -/
def wordPort (nbits : Nat) : Port := if nbits = 8 then .line else .head

/-- The operation the decoder reads from a word, under the configuration `State.reset` holds (log 8). -/
def decodeTableWord (nbits w : Nat) : Option Instr :=
  match decode Config.ex (wordPort nbits) (wordBytes nbits w) with
  | .ok i => some i
  | .error _ => none

/-! ## The encoder -/

/-- Closes a header with its checksum (R70): the bytes `h` and then their XOR. -/
def sealFrame (h : List Byte) : List Byte := h ++ [Machine.xsum h]

/-- The bytes an operation stands for at its port, `none` where the opcode table gives the row no encoding or the
row exists under no buffer of this configuration. A PF action has many buffers; the encoder gives the shortest, with
the least device code that its row admits and destination 0x00 (R76, log 7). -/
def encode (cfg : Config) : Instr → Option (Port × List Byte)
  | .push b => some (.line, [b])
  | .waitShort => some (.head, [])
  | .dropZeroLen => some (.head, [0, 0])
  | .dropUnknownSrc => (firstCode cfg false).map fun c => (.head, [c, 2])
  | .waitIncomplete => (firstCode cfg true).map fun c => (.head, [c, 2])
  | .extract => (firstCode cfg true).map fun c => (.head, sealFrame [c, 2, 0])
  | .dropBadChecksum => (firstCode cfg true).map fun c => (.head, [c, 2, 0, Machine.xsum [c, 2, 0] ^^^ 1])
  | .poll f => some (.frame, f)
  | .power f => some (.frame, f)
  | .mode f => some (.frame, f)
  | .now f => some (.frame, f)
  | .chUp f => some (.frame, f)
  | .chDown f => some (.frame, f)
  | .sat f => some (.frame, f)
  | .unhandled f => some (.frame, f)
  | .ignore f => some (.frame, f)
  | .xsum _ => none
  | .xchk _ => none
  | .fstep => none
  | .feed _ => none
  | .encode _ _ _ _ => none
  | .stop => none
  | .reset _ => none

/-- The rows whose encoding the opcode table gives as "none", and FEED, which stands for a sequence of PUSH. -/
def hasNoEncoding : Instr → Bool
  | .xsum _ => true
  | .xchk _ => true
  | .fstep => true
  | .feed _ => true
  | .encode _ _ _ _ => true
  | .stop => true
  | .reset _ => true
  | .push _ => false
  | .waitShort => false
  | .dropZeroLen => false
  | .dropUnknownSrc => false
  | .waitIncomplete => false
  | .extract => false
  | .dropBadChecksum => false
  | .poll _ => false
  | .power _ => false
  | .mode _ => false
  | .now _ => false
  | .chUp _ => false
  | .chDown _ => false
  | .sat _ => false
  | .unhandled _ => false
  | .ignore _ => false

end Sys2Proof
end

