-- ==== Sys2Proof/Machine/State.lean ====
section
/-! DEFINITION. The state of the block (spec/10_state.md R20 to R37), its value right after RESET
(spec/70_reset_and_hazards.md R200), and the reasons a step can stop. -/

namespace Sys2Proof.Machine

/-- The two fault kinds (R185). -/
inductive FaultKind where
  /-- A status reply is built while the channel has no one-byte encoding; info is the value. -/
  | channelOutOfRange
  /-- ENCODE is given more than 253 payload bytes; info is the payload length. -/
  | encodeTooLong
  deriving DecidableEq, Repr

/-- A fault record `Fault(kind, info)` (R25, R185). -/
structure FaultRecord where
  kind : FaultKind
  info : Int
  deriving DecidableEq, Repr

/-- The output events (R36). -/
inductive Event where
  /-- `PacketOut(f)`: the extracted frame bytes. -/
  | packetOut (f : List Byte)
  /-- `Dropped(b, cause)`. -/
  | dropped (b : Byte) (c : Cause)
  /-- `ReplyOut(r)`: the reply frame handed to the transport. -/
  | replyOut (r : List Byte)
  /-- `Unhandled(f)`: the inbound frame. -/
  | unhandled (f : List Byte)
  /-- `FaultRaised(kind, info)`. -/
  | faultRaised (r : FaultRecord)
  deriving DecidableEq, Repr

/-- THE MODEL'S OWN: what a function of CV or PE, or FEED, hands back to its caller (log 3). -/
inductive Answer where
  /-- The result of XSUM (R100). -/
  | byte (b : Byte)
  /-- The result of XCHK (R101). -/
  | bool (b : Bool)
  /-- The result of ENCODE (R170). -/
  | frame (f : List Byte)
  /-- The result of FEED: its PacketOut and Dropped events, in order (R119). -/
  | fed (es : List Event)
  deriving DecidableEq, Repr

/-- THE MODEL'S OWN: the host's control steps (R192, R200; log 4). -/
inductive Control where
  | stop
  | reset (cfg : Config)
  deriving DecidableEq, Repr

/-- THE MODEL'S OWN: what the host's program is made of (95_test_vectors.md, L3; log 4): calls of FEED, and control
steps. CV, PE and ER have no step of their own (R12), and PF's steps are internal (R112), so the host asks for none of
them. -/
inductive Request where
  | feed (s : List Byte)
  | control (c : Control)
  deriving DecidableEq, Repr

/-- The state of the block. "Its state is exactly the elements listed in this file" (R20): the fields down to
`trace`. The last five are the model's own. -/
structure State where
  /-- The configuration (R29 to R35), written by RESET only. -/
  config : Config
  /-- The pending buffer, oldest byte first (R22, R51). -/
  buf : List Byte
  /-- The stop flag (R24). -/
  stopped : Bool
  /-- The fault register: `None` or one record, sticky until RESET (R25). -/
  fault : Option FaultRecord
  /-- The emulator state (R26 to R28): unbounded integers. -/
  channel : Int
  band : Int
  preset : Int
  /-- The events emitted since reset, oldest first (R36). -/
  trace : List Event
  /-- THE MODEL'S OWN: the value the last XSUM, XCHK, ENCODE or FEED handed back (log 3). -/
  answer : Option Answer
  /-- THE MODEL'S OWN: bytes that arrived from the transport and that the host holds, in arrival order, until PUSH
  is enabled (R203, log 4). -/
  line : List Byte
  /-- THE MODEL'S OWN: the FEED call in progress, with the PacketOut and Dropped events emitted since its start
  (R119, log 14). -/
  feeding : Option (List Event)
  /-- THE MODEL'S OWN: the host's program, in order; each request is taken when the FEED before it has ended
  (R119, log 4). -/
  requests : List Request
  /-- THE MODEL'S OWN: for each step to come, the control step that the host takes at it, if any. They settle which
  of several enabled steps is taken (R189, log 4); after the last entry the host takes none. -/
  signals : List (Option Control)
  deriving DecidableEq, Repr

/-- Why the machine stops with a fault: it never does. The spec's faults are architectural (R25, R185): raising one
is a next state with the fault register set, and a faulted block keeps its state (R196). So this type is empty. -/
inductive Fault where
  deriving DecidableEq, Repr

/-- Why an operation has no transition in a state. Each is a point where the spec says that the operation is not
enabled or not defined, so the model has no transition for it (spec/93_implementation_defined.md, "refuse"). -/
inductive Refusal where
  /-- Raised by `exec` for an operation without a meaning. No arm raises it. Safe. -/
  | notModelled (mnemonic : String)
  /-- Raised by every step but RESET while `stopped = 1` (R24, R192). Safe. -/
  | stopped
  /-- Raised by every step but RESET while the fault register holds a record (R25, R185). Safe. -/
  | faulted (r : FaultRecord)
  /-- Raised by PUSH while PF is not quiescent (R111, U11). Safe. -/
  | notQuiescent
  /-- Raised by PUSH while `|buf| >= BUF_CAP` (R111, U11). Safe. -/
  | bufferFull
  /-- Raised by FSTEP while PF is quiescent (R112, R120). Safe. -/
  | quiescent
  /-- Raised by a PF action that R76 does not select for `buf`; `a` is the row that it does select. Safe. -/
  | otherAction (a : Action)
  /-- Raised by an ER kind that R77 does not select for its frame; `k` is the row that it does select. Safe. -/
  | otherKind (k : Kind)
  /-- Raised by an ER kind whose operand is not a frame (R70, R117). Safe. -/
  | notAFrame
  /-- Raised by RESET with a configuration that fails a check; `c` is the first (R202, U13). Safe. -/
  | illFormedConfig (c : ConfigCheck)
  /-- Raised by `step` where the fetched bytes are no operation; the fetch never presents such bytes. Safe. -/
  | undecodable (e : DecodeError)
  deriving DecidableEq, Repr

/-- The machine right after RESET(EX), with nothing held by the host (R200, R201; log 2 for EX). -/
def State.reset : State where
  config := Config.ex
  buf := []
  stopped := false
  fault := none
  channel := Config.ex.initChannel
  band := Config.ex.initBand
  preset := Config.ex.initPreset
  trace := []
  answer := none
  line := []
  feeding := none
  requests := []
  signals := []

/-- What `exec` and `step` answer. -/
abbrev Result := Host.Outcome State Fault Refusal

end Sys2Proof.Machine
end

