-- ==== Sys2Proof/Machine/Ops.lean ====
section
/-! DEFINITION. The named operations of spec/00_scope.md R9 over the state, the raising of a fault
(spec/60_exceptions.md R185) and the way out of it, RESET (spec/70_reset_and_hazards.md R200). -/

namespace Sys2Proof.Machine

/-- `BufRead(i)`: `buf[i]`, for `0 <= i < |buf|` (R9). Every reader tests `|buf|` first. -/
def bufRead (i : Nat) (s : State) : Byte := s.buf.getD i 0

/-- `BufPush(b)`: `buf <- buf ++ [b]` (R9). -/
def bufPush (b : Byte) (s : State) : State := { s with buf := s.buf ++ [b] }

/-- `BufDropFront(n)`: `buf <- drop(n, buf)` (R9). -/
def bufDropFront (n : Nat) (s : State) : State := { s with buf := s.buf.drop n }

/-- `emit E(args)`: appends the event to the trace (R9). -/
def emit (e : Event) (s : State) : State := { s with trace := s.trace ++ [e] }

/-- Writes the channel register (R26). -/
def setChannel (c : Int) (s : State) : State := { s with channel := c }

/-- Writes the stop flag (R24). -/
def setStopped (s : State) : State := { s with stopped := true }

/-- Hands a value back to the caller of a function (log 3). -/
def answerWith (a : Answer) (s : State) : State := { s with answer := some a }

/-- The host holds further bytes, behind those it holds already (R203, log 14). -/
def holdOnLine (bs : List Byte) (s : State) : State := { s with line := s.line ++ bs }

/-- The host empties its line (R203). -/
def takeLine (s : State) : State := { s with line := [] }

/-- A call of FEED is in progress, with these events so far; or none is (R119, log 14). -/
def setFeeding (f : Option (List Event)) (s : State) : State := { s with feeding := f }

/-- The host's program moves on (log 4). -/
def setRequests (rs : List Request) (s : State) : State := { s with requests := rs }

/-- The host's control signals move on (log 4). -/
def setSignals (cs : List (Option Control)) (s : State) : State := { s with signals := cs }

/-- TAKING A FAULT, the one shared operation: `raise Fault(kind, info)` sets the sticky fault register and emits
FaultRaised; no write of the raising step follows it (R9, R185, R190). -/
def raise (r : FaultRecord) (s : State) : State :=
  emit (.faultRaised r) { s with fault := some r }

/-- THE WAY OUT OF A FAULT (R190: "RESET is the only way out of a fault"): the writes of RESET(cfg) (R200): every
element of the block's state and nothing of the host's (log 15). -/
def loadConfig (cfg : Config) (s : State) : State :=
  { s with
    config := cfg
    buf := []
    stopped := false
    fault := none
    channel := cfg.initChannel
    band := cfg.initBand
    preset := cfg.initPreset
    trace := [] }

/-- The block is halted: Stopped or Faulted (R196). -/
def halted (s : State) : Bool := s.fault.isSome || s.stopped

/-- A step of the block is taken only while it is neither faulted nor stopped (R24, R25, R185). -/
def whenRunning (s : State) (o : Result) : Result :=
  match s.fault with
  | some r => .refused (.faulted r)
  | none => if s.stopped then .refused .stopped else o

end Sys2Proof.Machine
end

