-- ==== Sys2Proof/Machine/Control.lean ====
section
/-! DEFINITION. The host's control steps: STOP (spec/60_exceptions.md R192) and RESET
(spec/70_reset_and_hazards.md R200). -/

namespace Sys2Proof.Machine

/-- STOP (R192): enabled while `stopped = 0`, and like every step but RESET not on a faulted block (R185, log 9). -/
def execStop (s : State) : Result := whenRunning s (.next (setStopped s))

/-- RESET(cfg) (R200): always enabled; refused for a configuration that fails a check of R202 (U13). -/
def execReset (cfg : Config) (s : State) : Result :=
  match failedCheck cfg with
  | some c => .refused (.illFormedConfig c)
  | none => .next (loadConfig cfg s)

end Sys2Proof.Machine
end

