-- ==== Sys2Proof/Machine/Encoder.lean ====
section
/-! DEFINITION. PE, the packet encoder (spec/43_encoder.md R170). -/

namespace Sys2Proof.Machine

/-- `ENCODE(src, dst, cmd, text)`: the frame, or the fault it raises where the payload exceeds 253 bytes (R170). -/
def encodeFrame (src dst : Byte) (cmd text : List Byte) : Except FaultRecord (List Byte) :=
  let p := cmd ++ text
  if p.length > Config.maxPayload then .error ⟨.encodeTooLong, p.length⟩
  else
    let h := [src, BitVec.ofNat 8 (p.length + 2), dst] ++ p
    .ok (h ++ [xsum h])

/-- ENCODE (R170), called alone: it hands the frame back, or raises EncodeTooLong. The raise is a write of the block,
so a halted block does not make it (log 12). -/
def execEncode (src dst : Byte) (cmd text : List Byte) (s : State) : Result :=
  match encodeFrame src dst cmd text with
  | .ok r => .next (answerWith (.frame r) s)
  | .error e => whenRunning s (.next (raise e s))

end Sys2Proof.Machine
end

