-- ==== Sys2Proof/Machine/Responder.lean ====
section
/-! DEFINITION. ER, the command responder (spec/42_responder.md R140 to R155). The `perform…` functions are the
pseudocode of the rules; the `exec…` functions are the operations of the opcode table. -/

namespace Sys2Proof.Machine

/-- `STATE()`: the two state bytes of every status reply, channel and then band and preset packed as nibbles, or the
fault `byte` raises (R150, R8; log 13 for a band or preset outside a byte). -/
def stateBytes (s : State) : Except FaultRecord (List Byte) :=
  match toByte s.channel with
  | none => .error ⟨.channelOutOfRange, s.channel⟩
  | some c =>
    match toByte s.band with
    | none => .error ⟨.channelOutOfRange, s.band⟩
    | some b =>
      match toByte s.preset with
      | none => .error ⟨.channelOutOfRange, s.preset⟩
      | some p => .ok [c, (b <<< 4) ||| p]

/-- Emits the reply frame from `EMU_ADDR` to `replyDst(f)` (R151), or takes the fault ENCODE raises (R170). -/
def sendReply (f cmd text : List Byte) (s : State) : State :=
  match encodeFrame Config.emuAddr (replyDst s.config f) cmd text with
  | .ok r => emit (.replyOut r) s
  | .error e => raise e s

/-- A status reply: `ENCODE(EMU_ADDR, replyDst(f), PFX ++ STATE(), TEXT)`, with STATE() evaluated first (R142 to
R147, R150). -/
def statusReply (f pfx text : List Byte) (s : State) : State :=
  match stateBytes s with
  | .ok st => sendReply f (pfx ++ st) text s
  | .error e => raise e s

/-- POLL (R141). -/
def performPoll (f : List Byte) (s : State) : State := sendReply f s.config.announce [] s

/-- POWER (R142). -/
def performPower (f : List Byte) (s : State) : State := statusReply f s.config.pfxPower [] s

/-- MODE (R143). -/
def performMode (f : List Byte) (s : State) : State := statusReply f s.config.pfxMode [] s

/-- NOW (R144). -/
def performNow (f : List Byte) (s : State) : State := statusReply f s.config.pfxNow s.config.nowText s

/-- CH_UP (R145): the register is written before the reply is built. -/
def performChUp (f : List Byte) (s : State) : State :=
  statusReply f s.config.pfxChUp [] (setChannel (s.channel + 1) s)

/-- CH_DOWN (R146). -/
def performChDown (f : List Byte) (s : State) : State :=
  statusReply f s.config.pfxChDown [] (setChannel (s.channel - 1) s)

/-- SAT (R147). -/
def performSat (f : List Byte) (s : State) : State := statusReply f s.config.pfxSat s.config.satText s

/-- UNHANDLED (R148). -/
def performUnhandled (f : List Byte) (s : State) : State := emit (.unhandled f) s

/-- IGNORE (R149): no state change and no event. -/
def performIgnore (_f : List Byte) (s : State) : State := s

/-- `ER.handle(f)`: performs the kind that R77 selects (R140). -/
def handle (f : List Byte) (s : State) : State :=
  match kindOf s.config f with
  | .ignore => performIgnore f s
  | .poll => performPoll f s
  | .power => performPower f s
  | .mode => performMode f s
  | .now => performNow f s
  | .chUp => performChUp f s
  | .chDown => performChDown f s
  | .sat => performSat f s
  | .unhandled => performUnhandled f s

/-- A kind performed as an operation of its own (log 10): on a running block, on a frame, and only where R77 selects
that kind for it. -/
def whenKind (k : Kind) (f : List Byte) (s : State) (t : State) : Result :=
  whenRunning s <|
    if isFrame f then
      if kindOf s.config f = k then .next t else .refused (.otherKind (kindOf s.config f))
    else .refused .notAFrame

/-- POLL (R141). -/
def execPoll (f : List Byte) (s : State) : Result := whenKind .poll f s (performPoll f s)

/-- POWER (R142). -/
def execPower (f : List Byte) (s : State) : Result := whenKind .power f s (performPower f s)

/-- MODE (R143). -/
def execMode (f : List Byte) (s : State) : Result := whenKind .mode f s (performMode f s)

/-- NOW (R144). -/
def execNow (f : List Byte) (s : State) : Result := whenKind .now f s (performNow f s)

/-- CH_UP (R145). -/
def execChUp (f : List Byte) (s : State) : Result := whenKind .chUp f s (performChUp f s)

/-- CH_DOWN (R146). -/
def execChDown (f : List Byte) (s : State) : Result := whenKind .chDown f s (performChDown f s)

/-- SAT (R147). -/
def execSat (f : List Byte) (s : State) : Result := whenKind .sat f s (performSat f s)

/-- UNHANDLED (R148). -/
def execUnhandled (f : List Byte) (s : State) : Result := whenKind .unhandled f s (performUnhandled f s)

/-- IGNORE (R149). -/
def execIgnore (f : List Byte) (s : State) : Result := whenKind .ignore f s (performIgnore f s)

end Sys2Proof.Machine
end

