-- ==== Sys2Proof/Machine/Framer.lean ====
section
/-! DEFINITION. PF, the packet framer (spec/41_framer.md R111 to R119). The `perform…` functions are the pseudocode
of the rules; the `exec…` functions are the operations of the opcode table. -/

namespace Sys2Proof.Machine

/-- Drops `buf[0]` and reports it with a cause: the shape of the three DROP actions (R114, R115, R118). -/
def dropFirst (c : Cause) (s : State) : State := emit (.dropped (bufRead 0 s) c) (bufDropFront 1 s)

/-- DROP_ZERO_LEN (R114). -/
def performDropZeroLen (s : State) : State := dropFirst (zeroLenCause (bufRead 1 s)) s

/-- DROP_UNKNOWN_SRC (R115). -/
def performDropUnknownSrc (s : State) : State := dropFirst .unknownSrc s

/-- DROP_BAD_CHECKSUM (R118). -/
def performDropBadChecksum (s : State) : State := dropFirst .badChecksum s

/-- The size `L + 2` of the frame at the head of the buffer (R71). -/
def headSize (s : State) : Nat := (bufRead 1 s).toNat + 2

/-- EXTRACT (R117): the frame leaves the buffer whole, is reported, and ER handles it in this same step. -/
def performExtract (s : State) : State :=
  let f := s.buf.take (headSize s)
  handle f (emit (.packetOut f) (bufDropFront (headSize s) s))

/-- The step of an action, `none` for the two WAIT actions, which take no step (R112, R113, R116). -/
def performAction (a : Action) (s : State) : Option State :=
  match a with
  | .waitShort => none
  | .dropZeroLen => some (performDropZeroLen s)
  | .dropUnknownSrc => some (performDropUnknownSrc s)
  | .waitIncomplete => none
  | .extract => some (performExtract s)
  | .dropBadChecksum => some (performDropBadChecksum s)

/-- FSTEP as a partial step: `none` where it is not enabled (R112). -/
def frameStep (s : State) : Option State :=
  if halted s then none else performAction (classify s.config s.buf) s

/-- When PUSH is enabled (R111). -/
def pushEnabled (s : State) : Bool :=
  !halted s && phase s.config s.buf == .awaitingBytes && decide (s.buf.length < s.config.bufCap)

/-- PUSH (R111). A PUSH while not enabled does not happen: it is refused (U11). -/
def execPush (b : Byte) (s : State) : Result :=
  whenRunning s <|
    if phase s.config s.buf = .awaitingBytes then
      if s.buf.length < s.config.bufCap then .next (bufPush b s) else .refused .bufferFull
    else .refused .notQuiescent

/-- FSTEP (R112). Not enabled at quiescence. -/
def execFstep (s : State) : Result :=
  whenRunning s <|
    match performAction (classify s.config s.buf) s with
    | some t => .next t
    | none => .refused .quiescent

/-- An action performed as an operation of its own (log 10): only where R76 selects it for `buf`. -/
def whenAction (a : Action) (s : State) (t : State) : Result :=
  if classify s.config s.buf = a then .next t else .refused (.otherAction (classify s.config s.buf))

/-- WAIT_SHORT (R113): no state change. A halted block waits too (R196). -/
def execWaitShort (s : State) : Result := whenAction .waitShort s s

/-- WAIT_INCOMPLETE (R116): no state change. A halted block waits too (R196). -/
def execWaitIncomplete (s : State) : Result := whenAction .waitIncomplete s s

/-- DROP_ZERO_LEN (R114). -/
def execDropZeroLen (s : State) : Result := whenRunning s (whenAction .dropZeroLen s (performDropZeroLen s))

/-- DROP_UNKNOWN_SRC (R115). -/
def execDropUnknownSrc (s : State) : Result := whenRunning s (whenAction .dropUnknownSrc s (performDropUnknownSrc s))

/-- EXTRACT (R117). -/
def execExtract (s : State) : Result := whenRunning s (whenAction .extract s (performExtract s))

/-- DROP_BAD_CHECKSUM (R118). -/
def execDropBadChecksum (s : State) : Result :=
  whenRunning s (whenAction .dropBadChecksum s (performDropBadChecksum s))

/-- FSTEPs until none is enabled, at most `n` of them. `|buf|` many always suffice (R121). -/
def settle : Nat → State → State
  | 0, s => s
  | n + 1, s =>
    match frameStep s with
    | some t => settle n t
    | none => s

/-- PF run to quiescence, or to a halt (R119, R120). -/
def runToQuiescence (s : State) : State := settle s.buf.length s

/-- The sequence FEED stands for (R119): for each byte, FSTEPs to quiescence, PUSH, FSTEPs to quiescence. It stops
early where PUSH is not enabled; the bytes not pushed are held by the host (R203, log 14). -/
def feedBytes : List Byte → State → State
  | [], s => s
  | b :: bs, s =>
    let q := runToQuiescence s
    if pushEnabled q then feedBytes bs (runToQuiescence (bufPush b q)) else holdOnLine (b :: bs) q

/-- The events FEED's result is made of: PacketOut and Dropped (R119). -/
def isFeedResult : Event → Bool
  | .packetOut _ => true
  | .dropped _ _ => true
  | .replyOut _ => false
  | .unhandled _ => false
  | .faultRaised _ => false

/-- The PacketOut and Dropped events that a state's trace has beyond an earlier one's (R119). -/
def feedResults (s t : State) : List Event := (t.trace.drop s.trace.length).filter isFeedResult

/-- The byte stream that FEED offers: what the host holds already, and then FEED's own bytes, since the host reorders
no byte (R203, log 14). -/
def offeredBy (bs : List Byte) (s : State) : List Byte := s.line ++ bs

/-- FEED(s) (R119), uninterrupted: what its whole sequence of FSTEP and PUSH comes to, and its result, the PacketOut
and Dropped events it emitted, in order. It is no step of its own: `step` takes the sequence one FSTEP or PUSH at a
time, and STOP and RESET can land inside it (`scheduledStep`). FEED of the empty sequence takes no FSTEP, also where PF
is not quiescent: R119's loop has no iteration, while R120 says that a FEED ends at quiescence (log 24, DESIGN
CHOICE). -/
def execFeed (bs : List Byte) (s : State) : Result :=
  match bs with
  | [] => .next (answerWith (.fed []) s)
  | b :: rest =>
    let t := feedBytes (offeredBy (b :: rest) s) (takeLine s)
    .next (answerWith (.fed (feedResults s t)) t)

end Sys2Proof.Machine
end

