-- ==== Sys2Proof/Machine/Validator.lean ====
section
/-! DEFINITION. CV called alone: XSUM and XCHK hand a value back and write nothing of the block's state
(spec/40_checksum.md R100, R101; log 3). A Stopped or Faulted block answers too: a function of CV takes no step of the
block (R12), while R24, R25 and R192 let a halted block take none but RESET, and no rule says which holds of a function
called alone (log 23, DESIGN CHOICE). -/

namespace Sys2Proof.Machine

/-- XSUM (R100), on a halted block too (log 23). -/
def execXsum (bs : List Byte) (s : State) : Result := .next (answerWith (.byte (xsum bs)) s)

/-- XCHK (R101); outside its domain the answer is the free value (log 11). On a halted block
too (log 23). -/
def execXchk (f : List Byte) (s : State) : Result := .next (answerWith (.bool (xchkAnswer f)) s)

end Sys2Proof.Machine
end

