-- ==== Sys2Proof/Machine/Dispatch.lean ====
section
/-! DEFINITION. `exec`: one arm per row of spec/opcode_table.json, in the table's order. -/

namespace Sys2Proof.Machine

def exec (i : Instr) (s : State) : Host.Outcome State Fault Refusal :=
  match i with
  | .xsum bs => Sys2Proof.Machine.execXsum bs s
  | .xchk f => Sys2Proof.Machine.execXchk f s
  | .push b => Sys2Proof.Machine.execPush b s
  | .fstep => Sys2Proof.Machine.execFstep s
  | .waitShort => Sys2Proof.Machine.execWaitShort s
  | .dropZeroLen => Sys2Proof.Machine.execDropZeroLen s
  | .dropUnknownSrc => Sys2Proof.Machine.execDropUnknownSrc s
  | .waitIncomplete => Sys2Proof.Machine.execWaitIncomplete s
  | .extract => Sys2Proof.Machine.execExtract s
  | .dropBadChecksum => Sys2Proof.Machine.execDropBadChecksum s
  | .feed bs => Sys2Proof.Machine.execFeed bs s
  | .poll f => Sys2Proof.Machine.execPoll f s
  | .power f => Sys2Proof.Machine.execPower f s
  | .mode f => Sys2Proof.Machine.execMode f s
  | .now f => Sys2Proof.Machine.execNow f s
  | .chUp f => Sys2Proof.Machine.execChUp f s
  | .chDown f => Sys2Proof.Machine.execChDown f s
  | .sat f => Sys2Proof.Machine.execSat f s
  | .unhandled f => Sys2Proof.Machine.execUnhandled f s
  | .ignore f => Sys2Proof.Machine.execIgnore f s
  | .encode src dst cmd text => Sys2Proof.Machine.execEncode src dst cmd text s
  | .stop => Sys2Proof.Machine.execStop s
  | .reset cfg => Sys2Proof.Machine.execReset cfg s

end Sys2Proof.Machine
end

