-- ==== Sys2Proof/Machine/Fetch.lean ====
section
/-! DEFINITION. What the next step reads its operation from. The block has no program counter (spec/10_state.md
R21): its work is sequenced by the head of the pending buffer and, at quiescence, by the next byte of the line. -/

namespace Sys2Proof.Machine

/-- The bytes the next step decodes, and their port: the next byte of the line where PUSH is enabled (R203), else
the pending buffer (R21, R112). -/
def fetch (s : State) : Port × List Byte :=
  match s.line with
  | b :: _ => if pushEnabled s then (.line, [b]) else (.head, s.buf)
  | [] => (.head, s.buf)

/-- A byte offered to the block leaves the line (R203). -/
def consume (p : Port) (s : State) : State :=
  match p with
  | .line => { s with line := s.line.tail }
  | .head => s
  | .frame => s

/-- A running block of which the host asks for nothing. -/
def runnable (s : State) : State :=
  { s with stopped := false, fault := none, feeding := none, requests := [], signals := [] }

/-- The bytes of a word placed where the next step fetches them: one byte on the line before an empty buffer, or the
contents of the buffer. The block is running and the host asks for nothing else (log 5). -/
def placeWord (p : Port) (bytes : List Byte) (s : State) : State :=
  match p with
  | .line => { runnable s with buf := [], line := bytes }
  | .head => { runnable s with buf := bytes, line := [] }
  | .frame => { runnable s with buf := bytes, line := [] }

end Sys2Proof.Machine
end

