-- ==== Sys2Proof/Machine/Schedule.lean ====
section
/-! DEFINITION. Which step is taken next (spec/00_scope.md R10, R12; spec/60_exceptions.md R189). The block's steps are
one PUSH, one FSTEP (as the action that R76 selects), STOP and RESET; ER, CV and PE have no step of their own (R12), and
FEED is a sequence of steps (R119). -/

namespace Sys2Proof.Machine

/-- The operation of a control step. -/
def controlInstr : Control → Instr
  | .stop => .stop
  | .reset cfg => .reset cfg

/-- The step the block takes by itself or with the next byte of the line. A halted block keeps all its state (R196); a
running one performs what it decodes: PUSH of the next byte of the line where PUSH is enabled, else the action that R76
selects for the pending buffer. A WAIT action leaves the state as it is (log 6). -/
def blockStep (s : State) : Result :=
  if halted s then .next s
  else
    match decode s.config (fetch s).1 (fetch s).2 with
    | .ok i => exec i (consume (fetch s).1 s)
    | .error e => .refused (.undecodable e)

/-- Neither FSTEP nor a PUSH of the line is enabled: the block is halted, or PF is quiescent and the line is empty or
not accepted (R111, R112). -/
def nothingEnabled (s : State) : Bool :=
  halted s || (phase s.config s.buf == .awaitingBytes && (s.line.isEmpty || !pushEnabled s))

/-- FEED(s) starts: its bytes come behind those the host holds, and its call is in progress. FEED of the empty sequence
has ended at once (R119; log 14, log 24). -/
def beginFeed (bs : List Byte) (s : State) : State :=
  match bs with
  | [] => answerWith (.fed []) s
  | b :: rest => setFeeding (some []) (holdOnLine (b :: rest) s)

/-- FEED ends, and hands back the events emitted since its start (R119, log 3). -/
def endFeed (es : List Event) (s : State) : State := answerWith (.fed es) (setFeeding none s)

/-- The FEED in progress, if there is one, ends here where it has nothing more to do: its last byte is pushed and PF is
quiescent, or a fault, STOP or a full buffer stops it early (R119, log 14). A control step taken next finds it ended, so
a RESET of a faulted or stopped block does not take the call up again. -/
def concludeFeed (s : State) : State :=
  match s.feeding with
  | some es => if nothingEnabled s then endFeed es s else s
  | none => s

/-- The events a step emitted join the result of the FEED in progress (R119). -/
def collectFeed (es : List Event) (s : State) : Result → Result
  | .next t => .next (setFeeding (some (es ++ feedResults s t)) t)
  | .fault r => .fault r
  | .refused r => .refused r

/-- A step of the FEED in progress: one PUSH or one FSTEP, until the last byte is pushed and PF is quiescent, or until a
fault or STOP ends it early (R119). -/
def feedStep (es : List Event) (s : State) : Result :=
  if nothingEnabled s then .next (endFeed es s) else collectFeed es s (blockStep s)

/-- A request of the host's program. -/
def requestStep : Request → State → Result
  | .feed bs, s => .next (beginFeed bs s)
  | .control c, s => exec (controlInstr c) s

/-- A step at which the host takes no control step: a step of the FEED in progress, else the next request, else the
block's own step. -/
def unsignalledStep (s : State) : Result :=
  match s.feeding with
  | some es => feedStep es s
  | none =>
    match s.requests with
    | r :: rest => requestStep r (setRequests rest s)
    | [] => blockStep s

/-- The step that is taken: the control step of the host where there is one for it, whatever else is enabled (R189,
log 4), and it finds a FEED that is over ended (R119). -/
def scheduledStep (s : State) : Result :=
  match s.signals with
  | some c :: rest => exec (controlInstr c) (concludeFeed (setSignals rest s))
  | none :: rest => unsignalledStep (setSignals rest s)
  | [] => unsignalledStep s

end Sys2Proof.Machine
end

