-- ==== Sys2Proof/Machine/Step.lean ====
section
/-! DEFINITION. One step of the block with its host. -/

namespace Sys2Proof.Machine

/-- One step (R10): the one that is scheduled. -/
def step (s : State) : Host.Outcome State Fault Refusal := scheduledStep s

/-- `s` with a word of the opcode table stored where the next step fetches it (log 5, log 8). -/
def State.withFetchWord (s : State) (nbits w : Nat) : State :=
  placeWord (wordPort nbits) (wordBytes nbits w) s

end Sys2Proof.Machine
end

