-- ==== Sys2Proof/Safety.lean ====
section
/-! DEFINITION. The terms the statements speak in: running and quiescent blocks, the wire form of a frame written out
from spec/30_encoding.md R70, runs of FSTEPs, of steps and of handled frames, the normal end of a run
(spec/70_reset_and_hazards.md R209), the byte stream a state accounts for (spec/41_framer.md R125), and the invariant of the block. -/

namespace Sys2Proof.Machine

/-- The block is neither faulted nor stopped: its steps may be taken (R24, R25). -/
abbrev State.Running (s : State) : Prop := s.fault = none ∧ s.stopped = false

/-- PF is quiescent (R120). -/
abbrev State.Quiescent (s : State) : Prop := phase s.config s.buf = .awaitingBytes

/-- Two states agree on every element the spec gives the block (R20); the model's own fields may differ. -/
abbrev State.SameBlock (s t : State) : Prop :=
  s.config = t.config ∧ s.buf = t.buf ∧ s.stopped = t.stopped ∧ s.fault = t.fault ∧ s.channel = t.channel ∧
    s.band = t.band ∧ s.preset = t.preset ∧ s.trace = t.trace

/-- Band and preset each fit a nibble, as WF5 makes them at reset (R202). -/
abbrev State.NibbleState (s : State) : Prop := 0 ≤ s.band ∧ s.band ≤ 15 ∧ 0 ≤ s.preset ∧ s.preset ≤ 15

/-- The frame with source `src`, destination `dst` and payload `p`, written out from R70: its length byte counts the
destination, the payload and the checksum, and its checksum is the XOR of every byte before it. -/
def wireFrame (src dst : Byte) (p : List Byte) : List Byte :=
  src :: BitVec.ofNat 8 (p.length + 2) :: dst ::
    (p ++ [p.foldr (fun b acc => b ^^^ acc) (src ^^^ BitVec.ofNat 8 (p.length + 2) ^^^ dst)])

/-- The host takes no control step at the next step (R189, log 4). -/
abbrev State.Unsignalled (s : State) : Prop := ∀ c rest, s.signals ≠ some c :: rest

/-- A FEED has nothing more to do (R119): its last byte is pushed and PF is quiescent, or it is stopped early by a fault,
by STOP, or by a full buffer (log 14). -/
abbrev State.FeedOver (s : State) : Prop :=
  ¬ s.Running ∨ (s.Quiescent ∧ (s.line = [] ∨ s.config.bufCap ≤ s.buf.length))

/-- The bytes a request of the host's program offers: those of a FEED. -/
def Request.offers : Request → List Byte
  | .feed bs => bs
  | .control _ => []

/-- The bytes the host has left to offer (R203, R209), in stream order: those it holds, then those that its program will
FEED (log 4). -/
def State.leftToOffer (s : State) : List Byte := s.line ++ s.requests.flatMap Request.offers

/-- THE NORMAL END OF A RUN (R209): PF is quiescent, no fault is recorded, and the host has no byte left to offer;
`stopped` has either value. The bytes still in `buf` may never be resolved, and nothing is said of the bus or of time. A
faulted state is never one (R185). -/
abbrev State.NormalEnd (s : State) : Prop := s.Quiescent ∧ s.fault = none ∧ s.leftToOffer = []

/-- The state with the next entry of the host's signals spent (log 4). -/
def State.afterSignal (s : State) : State := { s with signals := s.signals.tail }

/-- The two state bytes of a status reply, by arithmetic: the channel, and sixteen times the band plus the preset
(R150). -/
def statusBytes (s : State) : List Byte :=
  [BitVec.ofInt 8 s.channel, BitVec.ofInt 8 (16 * s.band + s.preset)]

/-- The state that taking a fault leaves (R185): the record in the fault register, the event, and nothing else. -/
def State.faultedWith (s : State) (r : FaultRecord) : State :=
  { s with fault := some r, trace := s.trace ++ [.faultRaised r] }

/-- A frame with a destination that ER answers for: the device's own address, or a broadcast where the option accepts
it (R140). -/
abbrev AddressedFrame (cfg : Config) (f : List Byte) : Prop :=
  isFrame f = true ∧ 2 ≤ lenByte f ∧
    (destination f = 0x73 ∨ (cfg.acceptBroadcast = true ∧ destination f = 0xFF))

/-- `n` FSTEPs one after another. -/
def fsteps : Nat → State → Result
  | 0, s => .next s
  | n + 1, s =>
    match exec .fstep s with
    | .next t => fsteps n t
    | .fault r => .fault r
    | .refused r => .refused r

/-- `n` steps one after another. -/
def steps : Nat → State → Result
  | 0, s => .next s
  | n + 1, s =>
    match step s with
    | .next t => steps n t
    | .fault r => .fault r
    | .refused r => .refused r

/-- ER handles a sequence of inbound frames, each decoded by R77 and performed. -/
def handleFrames : List (List Byte) → State → Result
  | [], s => .next s
  | f :: fs, s =>
    match decode s.config .frame f with
    | .error e => .refused (.undecodable e)
    | .ok i =>
      match exec i s with
      | .next t => handleFrames fs t
      | .fault r => .fault r
      | .refused r => .refused r

/-- How many of a sequence of frames R77 gives a kind. -/
def countKind (cfg : Config) (k : Kind) (fs : List (List Byte)) : Nat :=
  (fs.filter fun f => kindOf cfg f == k).length

/-- The bytes of the input stream an event accounts for (R125): the frame of a PacketOut, the byte of a Dropped. -/
def consumedBy : Event → List Byte
  | .packetOut f => f
  | .dropped b _ => [b]
  | .replyOut _ => []
  | .unhandled _ => []
  | .faultRaised _ => []

/-- The bytes a trace accounts for, in stream order (R125). -/
def consumed (t : List Event) : List Byte := t.flatMap consumedBy

/-- The cause of dropping an unrecognized byte, by the byte after it (R123, last paragraph). -/
def noiseCause (cfg : Config) (b : Byte) : Cause :=
  if b = 0 then .zeroLen else if b = 1 ∧ cfg.acceptLen1 = false then .lenOne else .unknownSrc

/-- The drops of a run of noise bytes in front of the byte `next` (R123): each with the cause the byte after it
gives. -/
def noiseDrops (cfg : Config) (next : Byte) : List Byte → List Event
  | [] => []
  | g :: rest => .dropped g (noiseCause cfg (rest.headD next)) :: noiseDrops cfg next rest

/-- The fault record of a FaultRaised event. -/
def raisedBy : Event → Option FaultRecord
  | .faultRaised r => some r
  | .packetOut _ => none
  | .dropped _ _ => none
  | .replyOut _ => none
  | .unhandled _ => none

/-- What every event of a trace satisfies: extracted frames are frames that pass XCHK (R103), replies are frames from
0x73 with a destination that pass XCHK (R151, R172), unhandled frames were addressed (R148). -/
def EventOk (cfg : Config) : Event → Prop
  | .packetOut f => isFrame f = true ∧ xchk f = true
  | .dropped _ _ => True
  | .replyOut r => isFrame r = true ∧ 2 ≤ lenByte r ∧ source r = 0x73 ∧ xchk r = true
  | .unhandled f => AddressedFrame cfg f
  | .faultRaised _ => True

/-- THE INVARIANT OF THE BLOCK: its configuration passes R202; band and preset hold their reset values (R154); the
pending buffer holds at most 257 bytes (R39); every event is as `EventOk` says; and the trace records exactly the
fault that the fault register holds (R185). -/
structure State.Inv (s : State) : Prop where
  config_ok : configOk s.config = true
  band_reset : s.band = s.config.initBand
  preset_reset : s.preset = s.config.initPreset
  buf_bound : s.buf.length ≤ 257
  events_ok : ∀ e ∈ s.trace, EventOk s.config e
  faults_recorded : s.trace.filterMap raisedBy = s.fault.toList

end Sys2Proof.Machine
end

