-- ==== Sys2Proof/Certificates/Slice0/Obligations.lean ====
section
/-! DEFINITION. The statements for the provers. Each docstring names the rule of spec/ it formalises; where a clause
rests on a choice of the model, it names the log entry. -/

open Sys2Proof Sys2Proof.Machine

/-! ## CV -/

/-- R100, whole: XSUM starts from 0x00, takes each further byte in by XOR, does not depend on the order of the bytes,
cancels a byte that occurs twice, and writes no state of a running block. -/
def Obligations.XsumFoldsXorAndWritesNoState : Prop :=
  (xsum [] = 0 ∧ (∀ s b, xsum (s ++ [b]) = xsum s ^^^ b)) ∧
    (∀ s t : List Byte, s.Perm t → xsum s = xsum t) ∧
    (∀ b, xsum [b, b] = 0) ∧
    xsum [0x68, 0x03, 0x73, 0xC1] = 0xD9 ∧
    ∀ bs st, st.Running → ∃ t, exec (.xsum bs) st = .next t ∧ t.SameBlock st

/-- R101, whole: on its domain XCHK compares the XOR of the bytes `0 .. L` with byte `L + 1`, reads nothing beyond
that byte, compares `f[0] ⊕ f[1]` with `f[2]` where `L = 1`, and writes no state of a running block. -/
def Obligations.XchkComparesXsumAndWritesNoState : Prop :=
  (∀ f L, 2 ≤ f.length → (f.getD 1 0).toNat = L → L + 2 ≤ f.length →
      (xchk f = true ↔ (f.take (L + 1)).foldr (fun b acc => b ^^^ acc) 0 = f.getD (L + 1) 0) ∧
      ∀ more, xchk (f ++ more) = xchk f) ∧
    (∀ a c, xchk [a, 1, c] = true ↔ a ^^^ 1 = c) ∧
    xchk [0x68, 0x03, 0x73, 0xC1, 0xD9] = true ∧ xchk [0x68, 0x03, 0x73, 0xC1, 0xD8] = false ∧
    ∀ f st, st.Running → 2 ≤ f.length → lenByte f + 2 ≤ f.length → ∃ t, exec (.xchk f) st = .next t ∧ t.SameBlock st

/-- What the functions of CV and PE hand back. That a value is handed back in the field `answer` is the model's
choice (log 3), and so are the free value XCHK answers with outside its domain (log 11) and that the three answer on a
halted block (log 12, log 23). -/
def Obligations.FunctionsHandBackTheirValue : Prop :=
  (∀ bs st, exec (.xsum bs) st = .next { st with answer := some (.byte (xsum bs)) }) ∧
    (∀ f st, 2 ≤ f.length → lenByte f + 2 ≤ f.length →
      exec (.xchk f) st = .next { st with answer := some (.bool (xchk f)) }) ∧
    (∀ f st, ∃ v, exec (.xchk f) st = .next { st with answer := some (.bool v) }) ∧
    ∀ src dst cmd text st, cmd.length + text.length ≤ 253 →
      exec (.encode src dst cmd text) st =
        .next { st with answer := some (.frame (wireFrame src dst (cmd ++ text))) }

/-- The laws of XSUM that 40_checksum.md marks as derived: it splits over concatenation, closing a sequence with its
own checksum gives 0x00, and XCHK holds iff the XOR over the whole frame is 0x00. -/
def Obligations.XsumSplitsAndClosesToZero : Prop :=
  (∀ s t, xsum (s ++ t) = xsum s ^^^ xsum t) ∧
    (∀ s, xsum (s ++ [xsum s]) = 0) ∧
    ∀ f, 2 ≤ f.length → lenByte f + 2 ≤ f.length →
      (xchk f = true ↔ xsum (f.take (lenByte f + 2)) = 0)

/-- A one-bit corruption of a valid frame outside its length byte is always detected (40_checksum.md, derived). -/
def Obligations.SingleBitFlipIsDetected : Prop :=
  ∀ (f : List Byte) (i k : Nat), isFrame f = true → xchk f = true → i < f.length → i ≠ 1 → k < 8 →
    xchk (f.set i (f.getD i 0 ^^^ (1#8 <<< k))) = false

/-- Two flips of the same bit in two different bytes, and a swap of two bytes in `f[0 .. L]`, none of them the length
byte, leave XCHK true (40_checksum.md, derived). -/
def Obligations.PairedFlipsAndSwapsAreNotDetected : Prop :=
  (∀ (f : List Byte) (i j k : Nat), isFrame f = true → xchk f = true → i < f.length → j < f.length → i ≠ j →
      i ≠ 1 → j ≠ 1 → k < 8 →
      xchk ((f.set i (f.getD i 0 ^^^ (1#8 <<< k))).set j (f.getD j 0 ^^^ (1#8 <<< k))) = true) ∧
    ∀ (f : List Byte) (i j : Nat), isFrame f = true → xchk f = true → i ≤ lenByte f → j ≤ lenByte f →
      i ≠ 1 → j ≠ 1 → xchk ((f.set i (f.getD j 0)).set j (f.getD i 0)) = true

/-! ## PF -/

/-- R110 and R76, whole: each action is selected exactly where its own row's test holds and every earlier row's test
fails. -/
def Obligations.ClassifyFollowsTheActionTable : Prop :=
  ∀ (cfg : Config) (buf : List Byte),
    let L := (buf.getD 1 0).toNat
    let short := buf.length < 2
    let badLen := L = 0 ∨ (L = 1 ∧ cfg.acceptLen1 = false)
    let unknown := cfg.dev.getLsbD (buf.getD 0 0).toNat = false
    let incomplete := buf.length < L + 2
    let good := xsum (buf.take (L + 1)) = buf.getD (L + 1) 0
    (classify cfg buf = .waitShort ↔ short) ∧
    (classify cfg buf = .dropZeroLen ↔ ¬ short ∧ badLen) ∧
    (classify cfg buf = .dropUnknownSrc ↔ ¬ short ∧ ¬ badLen ∧ unknown) ∧
    (classify cfg buf = .waitIncomplete ↔ ¬ short ∧ ¬ badLen ∧ ¬ unknown ∧ incomplete) ∧
    (classify cfg buf = .extract ↔ ¬ short ∧ ¬ badLen ∧ ¬ unknown ∧ ¬ incomplete ∧ good) ∧
    (classify cfg buf = .dropBadChecksum ↔ ¬ short ∧ ¬ badLen ∧ ¬ unknown ∧ ¬ incomplete ∧ ¬ good)

/-- R23: the phase as a function of what classify answers. -/
def Obligations.PhaseGroupsTheActions : Prop :=
  ∀ (cfg : Config) (buf : List Byte),
    (phase cfg buf = .awaitingBytes ↔ classify cfg buf = .waitShort ∨ classify cfg buf = .waitIncomplete) ∧
    (phase cfg buf = .extractedPacket ↔ classify cfg buf = .extract) ∧
    (phase cfg buf = .resyncing ↔
      classify cfg buf = .dropZeroLen ∨ classify cfg buf = .dropUnknownSrc ∨ classify cfg buf = .dropBadChecksum) ∧
    phase cfg [] = .awaitingBytes ∧
    Phase.awaitingBytes.code = 0 ∧ Phase.extractedPacket.code = 1 ∧ Phase.resyncing.code = 2

/-- Once classify selects an action that is no wait, appended bytes do not change it (41_framer.md, the reason given
for segmentation invariance, derived). -/
def Obligations.ActionIsStableUnderLaterBytes : Prop :=
  ∀ (cfg : Config) (buf more : List Byte),
    phase cfg buf ≠ .awaitingBytes → classify cfg (buf ++ more) = classify cfg buf

/-- R111: where PUSH is enabled it appends its byte and changes nothing else, and the buffer then holds at most 257
bytes; where it is not enabled it does not happen; and after it the phase may be any of the three. -/
def Obligations.PushAppendsItsByteWhereEnabled : Prop :=
  (∀ (b : Byte) (s : State),
    (s.Running ∧ s.Quiescent ∧ s.buf.length < s.config.bufCap →
      exec (.push b) s = .next { s with buf := s.buf ++ [b] } ∧ (s.buf ++ [b]).length ≤ 257) ∧
    (¬ (s.Running ∧ s.Quiescent ∧ s.buf.length < s.config.bufCap) → ∃ r, exec (.push b) s = .refused r)) ∧
    ∀ ph : Phase, ∃ (b : Byte) (s t : State), exec (.push b) s = .next t ∧ phase t.config t.buf = ph

/-- R112: on a running block that is not quiescent, FSTEP performs the action classify selects, which is never a wait,
and shortens the buffer. On a quiescent or halted block it is not enabled. -/
def Obligations.FstepPerformsTheSelectedAction : Prop :=
  ∀ s : State,
    (s.Running ∧ ¬ s.Quiescent →
      exec .fstep s = exec (actionInstr (classify s.config s.buf)) s ∧
      ∃ t, exec .fstep s = .next t ∧ t.buf.length < s.buf.length) ∧
    (¬ s.Running ∨ s.Quiescent → ∃ r, exec .fstep s = .refused r)

/-- A wait changes no state, and while PF waits no FSTEP is enabled (R113, R116). The rules say that no step is taken:
that the operation asked for answers the same state is the model's choice (log 6), and so is that it does on a halted
block (log 10). -/
def Obligations.WaitActionsChangeNothing : Prop :=
  (∀ s : State, s.buf.length < 2 →
      exec .waitShort s = .next s ∧ s.Quiescent ∧ ∃ r, exec .fstep s = .refused r) ∧
    ∀ (s : State) (a len : Byte) (rest : List Byte), s.buf = a :: len :: rest → len ≠ 0 →
      (len = 1 → s.config.acceptLen1 = true) → s.config.dev.getLsbD a.toNat = true →
      rest.length < len.toNat →
      exec .waitIncomplete s = .next s ∧ s.Quiescent ∧ ∃ r, exec .fstep s = .refused r

/-- R114: the zero length drop, and the length-one drop under the D6 alternative, with cause codes 1 and 4 (R37). -/
def Obligations.DropZeroLenDropsTheFirstByte : Prop :=
  ∀ (s : State) (a len : Byte) (rest : List Byte), s.Running → s.buf = a :: len :: rest →
    (len = 0 →
      exec .dropZeroLen s =
        .next { s with buf := len :: rest, trace := s.trace ++ [.dropped a .zeroLen] }) ∧
    (len = 1 → s.config.acceptLen1 = false →
      exec .dropZeroLen s =
        .next { s with buf := len :: rest, trace := s.trace ++ [.dropped a .lenOne] }) ∧
    Cause.zeroLen.code = 1 ∧ Cause.lenOne.code = 4

/-- R115: a source byte whose entry of DEV is 0 is dropped, where the length byte is acceptable, with
cause code 2 (R37). -/
def Obligations.DropUnknownSrcDropsTheFirstByte : Prop :=
  ∀ (s : State) (a len : Byte) (rest : List Byte), s.Running → s.buf = a :: len :: rest →
    len ≠ 0 → (len = 1 → s.config.acceptLen1 = true) → s.config.dev.getLsbD a.toNat = false →
    exec .dropUnknownSrc s =
      .next { s with buf := len :: rest, trace := s.trace ++ [.dropped a .unknownSrc] } ∧
    Cause.unknownSrc.code = 2

/-- R118: a complete candidate frame that fails XCHK costs one byte, not the whole frame, with cause code 3
(R37). -/
def Obligations.DropBadChecksumDropsTheFirstByte : Prop :=
  ∀ (s : State) (a len : Byte) (rest : List Byte), s.Running → s.buf = a :: len :: rest →
    len ≠ 0 → (len = 1 → s.config.acceptLen1 = true) → s.config.dev.getLsbD a.toNat = true →
    len.toNat ≤ rest.length → xchk s.buf = false →
    exec .dropBadChecksum s =
      .next { s with buf := len :: rest, trace := s.trace ++ [.dropped a .badChecksum] } ∧
    Cause.badChecksum.code = 3

/-- R117: a valid frame at the head leaves the buffer whole and is reported, and in the same step ER performs the
kind it decodes to. -/
def Obligations.ExtractRemovesTheFrameAndHandlesIt : Prop :=
  ∀ (s : State) (f rest : List Byte), s.Running → s.buf = f ++ rest → isFrame f = true → xchk f = true →
    (lenByte f = 1 → s.config.acceptLen1 = true) → s.config.dev.getLsbD (source f).toNat = true →
    ∃ i t, decode s.config .frame f = .ok i ∧
      exec .extract s = exec i { s with buf := rest, trace := s.trace ++ [.packetOut f] } ∧
      exec .extract s = .next t ∧ t.buf = rest

/-- A PF action or an ER kind asked for where its decode row does not select it has no transition (log 10, the model's
choice; the rows are those of R76 and R77). -/
def Obligations.UnselectedRowsAreRefused : Prop :=
  (∀ (s : State) (a : Action), classify s.config s.buf ≠ a → ∃ r, exec (actionInstr a) s = .refused r) ∧
    ∀ (s : State) (k : Kind) (f : List Byte), isFrame f = false ∨ kindOf s.config f ≠ k →
      ∃ r, exec (kindInstr k f) s = .refused r

/-- From any running block at most `|buf|` FSTEPs lead to quiescence or to a fault, and each shortens the buffer
(41_framer.md, Progress, derived). So a run whose host takes no control step and asks for FEEDs alone comes to its normal
end (70_reset_and_hazards.md, End of a run), or to a fault, which is none; where the host's bytes stand is log 4. -/
def Obligations.FstepsReachQuiescence : Prop :=
  (∀ s : State, s.Running →
    ∃ n t, n + t.buf.length ≤ s.buf.length ∧ fsteps n s = .next t ∧ (t.Quiescent ∨ t.fault ≠ none)) ∧
    ∀ s : State, s.Running → 257 ≤ s.config.bufCap → s.signals = [] → (∀ r ∈ s.requests, ∃ bs, r = .feed bs) →
      ∃ n t, steps n s = .next t ∧ (t.NormalEnd ∨ t.fault ≠ none)

/-- R119 for one byte on a running block, quiescent or not, while the host holds none: FEED is the FSTEPs that reach
quiescence, PUSH, and the FSTEPs that reach it again; where the first FSTEPs end in a fault, or leave no room for the
byte, FEED stops early and the host holds the byte (R203, log 14). That its result is handed back in `answer` is the
model's choice (log 3). -/
def Obligations.FeedOfOneByteIsPushThenFsteps : Prop :=
  ∀ (s : State) (b : Byte), s.Running → s.line = [] →
    ∃ m q, fsteps m s = .next q ∧ (q.Quiescent ∨ q.fault ≠ none) ∧
      (q.fault = none → q.buf.length < q.config.bufCap →
        ∃ p n t evs, exec (.push b) q = .next p ∧ fsteps n p = .next t ∧ (t.Quiescent ∨ t.fault ≠ none) ∧
          t.trace = s.trace ++ evs ∧
          exec (.feed [b]) s = .next { t with answer := some (.fed (evs.filter isFeedResult)) }) ∧
      (q.fault ≠ none ∨ q.config.bufCap ≤ q.buf.length →
        ∃ evs, q.trace = s.trace ++ evs ∧
          exec (.feed [b]) s = .next { q with line := [b], answer := some (.fed (evs.filter isFeedResult)) })

/-- FEED always completes, and accounts for every byte: the bytes the host held come first, and what is not pushed,
because a fault or STOP ended it early or the buffer was full, the host holds in order. FEED of the empty sequence
changes nothing of the block (R119, R203; the field `line` and the order are log 14, the empty sequence is log 24, a
halted block is log 14: the model's choices). -/
def Obligations.FeedCompletesAndLosesNoByte : Prop :=
  (∀ (s : State) (bs : List Byte), ∃ t pushed, exec (.feed bs) s = .next t ∧
    s.line ++ bs = pushed ++ t.line ∧
    consumed t.trace ++ t.buf = consumed s.trace ++ s.buf ++ pushed ∧
    (bs ≠ [] → t.line ≠ [] → ¬ t.Running ∨ t.config.bufCap ≤ t.buf.length)) ∧
    ∀ s : State, exec (.feed []) s = .next { s with answer := some (.fed []) }

/-- Segmentation invariance, first half (41_framer.md, derived): cutting a byte stream into two FEED calls changes
nothing but which result is handed back last. It holds for halted blocks and full buffers too, where what FEED does is
the model's choice (log 14; the field `answer` is log 3, the empty sequence is log 24). -/
def Obligations.FeedIsSegmentationInvariant : Prop :=
  ∀ (s : State) (as bs : List Byte), ∃ t u v, exec (.feed as) s = .next t ∧ exec (.feed bs) t = .next u ∧
    exec (.feed (as ++ bs)) s = .next v ∧ v = { u with answer := v.answer }

/-- Segmentation invariance, second half (41_framer.md, derived): where no fault is raised, FEED from quiescence ends
as the source's bulk form does: append all the bytes, those the host held first, then loop. The field `answer`, which
the statement sets aside, is the model's choice (log 3), and so is that held bytes come first (log 14). -/
def Obligations.FeedEqualsTheBulkForm : Prop :=
  ∀ (s t : State) (bs : List Byte), s.Running → s.Quiescent → 257 ≤ s.config.bufCap → bs ≠ [] ∨ s.line = [] →
    exec (.feed bs) s = .next t → t.fault = none →
    ∃ n u, fsteps n { s with buf := s.buf ++ (s.line ++ bs), line := [] } = .next u ∧ u.Quiescent ∧
      t = { u with answer := t.answer }

/-- FEED is no step of its own (R119): asked for by the host's program, it runs as single steps. Left alone, they end
where the uninterrupted sequence does. In progress, each step is one FSTEP, or PUSH of the next byte of the line at
quiescence, and FEED ends, handing back the events so far, where the last byte is pushed and PF is quiescent, or early where a
fault or STOP has halted the block or the buffer is full. It ends early also where RESET is the very next step after the
fault or the STOP: the reset block has no call in progress (that a call in progress and its result are fields of the state,
and that the bytes not pushed stay with the host, is the model's choice, log 3, log 4, log 14). -/
def Obligations.FeedRunsAsSingleSteps : Prop :=
  (∀ (s : State) (bs : List Byte) (rest : List Request), s.signals = [] → s.feeding = none →
    s.requests = .feed bs :: rest →
    ∃ n t, exec (.feed bs) { s with requests := rest } = .next t ∧ steps n s = .next t) ∧
    (∀ (s : State) (es : List Event), s.feeding = some es → s.FeedOver →
      (s.Unsignalled → step s = .next { s.afterSignal with feeding := none, answer := some (.fed es) }) ∧
      ∀ cfg rest, configOk cfg = true → s.signals = some (.reset cfg) :: rest →
        ∃ t, step s = .next t ∧ t.SameBlock (loadConfig cfg s) ∧ t.feeding = none ∧ t.answer = some (.fed es) ∧
          t.line = s.line) ∧
    (∀ (s : State) (es : List Event) (cfg : Config) (rest : List (Option Control)), s.feeding = some es → s.Running →
      configOk cfg = true → s.signals = some .stop :: some (.reset cfg) :: rest →
        ∃ t, steps 2 s = .next t ∧ t.SameBlock (loadConfig cfg s) ∧ t.feeding = none ∧ t.answer = some (.fed es) ∧
          t.line = s.line) ∧
    ∀ (s : State) (es : List Event), s.Unsignalled → s.feeding = some es →
      (s.Running → ¬ s.Quiescent → ∃ t evs, exec .fstep s.afterSignal = .next t ∧ t.trace = s.trace ++ evs ∧
        step s = .next { t with feeding := some (es ++ evs.filter isFeedResult) }) ∧
      (s.Running → s.Quiescent → s.buf.length < s.config.bufCap → ∀ b rest, s.line = b :: rest →
        step s = .next { s.afterSignal with buf := s.buf ++ [b], line := rest })

/-- Conservation at the level of steps (41_framer.md, derived): while the host asks for nothing new, a step, of a FEED in
progress too, neither loses, duplicates nor reorders a byte of the stream: what the trace accounts for, then the buffer,
then the line. -/
def Obligations.StepConservesTheByteStream : Prop :=
  ∀ s t : State, s.Unsignalled → (s.feeding = none → s.requests = []) → step s = .next t →
    consumed t.trace ++ t.buf ++ t.line = consumed s.trace ++ s.buf ++ s.line

/-- The round trip (43_encoder.md, derived): an empty running framer that recognizes the source gets exactly the
encoded frame out of its bytes, with no drop, and an empty buffer, while the host holds no other byte. -/
def Obligations.FeedOfAnEncodedFrameExtractsIt : Prop :=
  ∀ (s : State) (src dst : Byte) (cmd text : List Byte), s.Running → s.buf = [] → s.line = [] →
    257 ≤ s.config.bufCap → s.config.dev.getLsbD src.toNat = true → cmd.length + text.length ≤ 253 →
    ∃ t evs, exec (.feed (wireFrame src dst (cmd ++ text))) s = .next t ∧ t.buf = [] ∧ t.line = [] ∧
      t.trace = s.trace ++ .packetOut (wireFrame src dst (cmd ++ text)) :: evs ∧
      evs.filter isFeedResult = []

/-- Noise that holds no recognized code does not cost the frame after it (41_framer.md, derived, last paragraph of the
limits of noise tolerance): each noise byte is dropped with the cause the byte after it gives, and then the frame is
extracted. -/
def Obligations.UnrecognizedNoiseIsDroppedBeforeAFrame : Prop :=
  ∀ (s : State) (noise f : List Byte), s.Running → s.buf = [] → s.line = [] → 257 ≤ s.config.bufCap →
    (∀ g ∈ noise, s.config.dev.getLsbD g.toNat = false) →
    isFrame f = true → xchk f = true → (lenByte f = 1 → s.config.acceptLen1 = true) →
    s.config.dev.getLsbD (source f).toNat = true →
    ∃ t evs, exec (.feed (noise ++ f)) s = .next t ∧ t.buf = [] ∧
      t.trace = s.trace ++ noiseDrops s.config (source f) noise ++ .packetOut f :: evs ∧
      evs.filter isFeedResult = []

/-! ## ER -/

/-- R141: POLL answers the announce payload from 0x73 to the reply destination and changes no register; the reply
destination is the source of the frame where REPLY_DST is SENDER and the fixed byte otherwise (R151). -/
def Obligations.PollSendsTheAnnounce : Prop :=
  (∀ (s : State) (f : List Byte), s.Running → configOk s.config = true → AddressedFrame s.config f →
    payload f = s.config.cmdPoll →
    exec (.poll f) s =
      .next { s with
        trace := s.trace ++ [.replyOut (wireFrame 0x73 (replyDst s.config f) s.config.announce)] }) ∧
    ∀ (cfg : Config) (f : List Byte),
      (cfg.replyDst = .sender → ∀ b rest, f = b :: rest → replyDst cfg f = b) ∧
      ∀ b, cfg.replyDst = .fixed b → replyDst cfg f = b

/-- R142: POWER answers the status with its own prefix and changes no register, or faults on the channel. -/
def Obligations.PowerSendsTheStatus : Prop :=
  ∀ (s : State) (f : List Byte), s.Running → configOk s.config = true → s.NibbleState →
    AddressedFrame s.config f → payload f = s.config.cmdPower →
    (0 ≤ s.channel → s.channel ≤ 255 →
      exec (.power f) s =
        .next { s with
          trace := s.trace ++
            [.replyOut (wireFrame 0x73 (replyDst s.config f) (s.config.pfxPower ++ statusBytes s))] }) ∧
    (s.channel < 0 ∨ 255 < s.channel →
      exec (.power f) s = .next (s.faultedWith ⟨.channelOutOfRange, s.channel⟩))

/-- R143: MODE answers the status with its own prefix and changes no register, or faults on the channel. -/
def Obligations.ModeSendsTheStatus : Prop :=
  ∀ (s : State) (f : List Byte), s.Running → configOk s.config = true → s.NibbleState →
    AddressedFrame s.config f → payload f = s.config.cmdMode →
    (0 ≤ s.channel → s.channel ≤ 255 →
      exec (.mode f) s =
        .next { s with
          trace := s.trace ++
            [.replyOut (wireFrame 0x73 (replyDst s.config f) (s.config.pfxMode ++ statusBytes s))] }) ∧
    (s.channel < 0 ∨ 255 < s.channel →
      exec (.mode f) s = .next (s.faultedWith ⟨.channelOutOfRange, s.channel⟩))

/-- R144: NOW answers the status and then the blank text, or faults on the channel. -/
def Obligations.NowSendsTheStatusAndText : Prop :=
  ∀ (s : State) (f : List Byte), s.Running → configOk s.config = true → s.NibbleState →
    AddressedFrame s.config f → payload f = s.config.cmdNow →
    (0 ≤ s.channel → s.channel ≤ 255 →
      exec (.now f) s =
        .next { s with
          trace := s.trace ++
            [.replyOut (wireFrame 0x73 (replyDst s.config f)
              (s.config.pfxNow ++ statusBytes s ++ s.config.nowText))] }) ∧
    (s.channel < 0 ∨ 255 < s.channel →
      exec (.now f) s = .next (s.faultedWith ⟨.channelOutOfRange, s.channel⟩))

/-- R145: CH_UP adds one to the channel, with no bound and no wrap, and answers the updated status; where the new
channel has no one-byte encoding, the increment stands and the fault is taken. -/
def Obligations.ChUpIncrementsThenAnswers : Prop :=
  ∀ (s : State) (f : List Byte), s.Running → configOk s.config = true → s.NibbleState →
    AddressedFrame s.config f → payload f = s.config.cmdChUp →
    let u := { s with channel := s.channel + 1 }
    (0 ≤ s.channel + 1 → s.channel + 1 ≤ 255 →
      exec (.chUp f) s =
        .next { u with
          trace := s.trace ++
            [.replyOut (wireFrame 0x73 (replyDst s.config f) (s.config.pfxChUp ++ statusBytes u))] }) ∧
    (s.channel + 1 < 0 ∨ 255 < s.channel + 1 →
      exec (.chUp f) s = .next (u.faultedWith ⟨.channelOutOfRange, s.channel + 1⟩))

/-- R146: CH_DOWN takes one from the channel, with no bound and no wrap, and answers the updated status; where the new
channel has no one-byte encoding, the decrement stands and the fault is taken. -/
def Obligations.ChDownDecrementsThenAnswers : Prop :=
  ∀ (s : State) (f : List Byte), s.Running → configOk s.config = true → s.NibbleState →
    AddressedFrame s.config f → payload f = s.config.cmdChDown →
    let u := { s with channel := s.channel - 1 }
    (0 ≤ s.channel - 1 → s.channel - 1 ≤ 255 →
      exec (.chDown f) s =
        .next { u with
          trace := s.trace ++
            [.replyOut (wireFrame 0x73 (replyDst s.config f) (s.config.pfxChDown ++ statusBytes u))] }) ∧
    (s.channel - 1 < 0 ∨ 255 < s.channel - 1 →
      exec (.chDown f) s = .next (u.faultedWith ⟨.channelOutOfRange, s.channel - 1⟩))

/-- R147: SAT answers the status and then the fixed text, or faults on the channel. -/
def Obligations.SatSendsTheStatusAndText : Prop :=
  ∀ (s : State) (f : List Byte), s.Running → configOk s.config = true → s.NibbleState →
    AddressedFrame s.config f → payload f = s.config.cmdSat →
    (0 ≤ s.channel → s.channel ≤ 255 →
      exec (.sat f) s =
        .next { s with
          trace := s.trace ++
            [.replyOut (wireFrame 0x73 (replyDst s.config f)
              (s.config.pfxSat ++ statusBytes s ++ s.config.satText))] }) ∧
    (s.channel < 0 ∨ 255 < s.channel →
      exec (.sat f) s = .next (s.faultedWith ⟨.channelOutOfRange, s.channel⟩))

/-- R148: an addressed frame whose payload is none of the seven commands is reported, with no reply. -/
def Obligations.UnhandledIsReportedWithoutReply : Prop :=
  ∀ (s : State) (f : List Byte), s.Running → AddressedFrame s.config f → payload f ∉ commandFields s.config →
    exec (.unhandled f) s = .next { s with trace := s.trace ++ [.unhandled f] }

/-- R149: a length-1 frame, and a frame not addressed to the device even when its payload is a command, change
nothing and emit nothing. -/
def Obligations.IgnoreChangesNothing : Prop :=
  ∀ (s : State) (f : List Byte), s.Running → isFrame f = true →
    (lenByte f = 1 ∨
      (destination f ≠ 0x73 ∧ (s.config.acceptBroadcast = true → destination f ≠ 0xFF))) →
    exec (.ignore f) s = .next s

/-- R77 (and the dispatch of ER.handle): a frame decodes to exactly one kind, by the address test and then by exact comparison of the whole payload
with the seven command fields; the source byte plays no part. -/
def Obligations.FrameDecodeFollowsTheCommandTable : Prop :=
  ∀ (cfg : Config) (f : List Byte), configOk cfg = true → isFrame f = true →
    (¬ AddressedFrame cfg f → decode cfg .frame f = .ok (.ignore f)) ∧
    (AddressedFrame cfg f →
      (payload f = cfg.cmdPoll → decode cfg .frame f = .ok (.poll f)) ∧
      (payload f = cfg.cmdPower → decode cfg .frame f = .ok (.power f)) ∧
      (payload f = cfg.cmdMode → decode cfg .frame f = .ok (.mode f)) ∧
      (payload f = cfg.cmdNow → decode cfg .frame f = .ok (.now f)) ∧
      (payload f = cfg.cmdChUp → decode cfg .frame f = .ok (.chUp f)) ∧
      (payload f = cfg.cmdChDown → decode cfg .frame f = .ok (.chDown f)) ∧
      (payload f = cfg.cmdSat → decode cfg .frame f = .ok (.sat f)) ∧
      (payload f ∉ commandFields cfg → decode cfg .frame f = .ok (.unhandled f)))

/-- ER has exactly one outcome per extracted frame: one reply, one Unhandled, nothing, or the channel fault
(42_responder.md, derived; never two replies, C8). -/
def Obligations.ExtractHasOneResponderOutcome : Prop :=
  ∀ s t : State, configOk s.config = true → s.NibbleState → exec .extract s = .next t →
    ∃ f, (t.trace = s.trace ++ [.packetOut f] ∧ t.fault = none) ∨
      (∃ r, t.trace = s.trace ++ [.packetOut f, .replyOut r] ∧ t.fault = none) ∨
      (t.trace = s.trace ++ [.packetOut f, .unhandled f] ∧ t.fault = none) ∨
      (∃ c : Int, (c < 0 ∨ 255 < c) ∧ t.channel = c ∧
        t.trace = s.trace ++ [.packetOut f, .faultRaised ⟨.channelOutOfRange, c⟩] ∧
        t.fault = some ⟨.channelOutOfRange, c⟩)

/-- State progression (42_responder.md, derived): over any sequence of handled frames the channel moves by the number
of CH_UP less the number of CH_DOWN, and band and preset stay. -/
def Obligations.ChannelCountsUpAndDown : Prop :=
  ∀ (s t : State) (fs : List (List Byte)), handleFrames fs s = .next t →
    t.channel = s.channel + countKind s.config .chUp fs - countKind s.config .chDown fs ∧
    t.band = s.band ∧ t.preset = s.preset

/-- A reply sent to the frame's sender, echoed back, is ignored unless that sender's own code is one ER answers for
(42_responder.md, derived; the broadcast case is log 20). -/
def Obligations.EchoOfAReplyIsIgnored : Prop :=
  ∀ (cfg : Config) (f p : List Byte), cfg.replyDst = .sender → p.length ≤ 253 → source f ≠ 0x73 →
    (cfg.acceptBroadcast = true → source f ≠ 0xFF) →
    decode cfg .frame (wireFrame 0x73 (replyDst cfg f) p) = .ok (.ignore (wireFrame 0x73 (replyDst cfg f) p))

/-! ## PE -/

/-- R170, on a running block: up to 253 payload bytes ENCODE gives the frame; beyond that it raises EncodeTooLong with the payload length,
writing the fault register and its event and nothing else. -/
def Obligations.EncodeBuildsTheFrameOrFaults : Prop :=
  ∀ (src dst : Byte) (cmd text : List Byte),
    (cmd.length + text.length ≤ 253 →
      encodeFrame src dst cmd text = .ok (wireFrame src dst (cmd ++ text)) ∧
      ∀ s : State, s.Running → ∃ t, exec (.encode src dst cmd text) s = .next t ∧ t.SameBlock s) ∧
    (253 < cmd.length + text.length → ∀ s : State, s.Running →
      exec (.encode src dst cmd text) s =
        .next (s.faultedWith ⟨.encodeTooLong, ((cmd.length + text.length : Nat) : Int)⟩))

/-- The field view and validity of an encoded frame (43_encoder.md, derived): its fields are the operands, its length
byte is the payload's length and two, and it satisfies XCHK. -/
def Obligations.EncodedFrameHasItsFieldsAndPassesXchk : Prop :=
  ∀ (src dst : Byte) (cmd text r : List Byte), encodeFrame src dst cmd text = .ok r →
    isFrame r = true ∧ xchk r = true ∧ source r = src ∧ destination r = dst ∧ payload r = cmd ++ text ∧
      lenByte r = cmd.length + text.length + 2 ∧ checksum r = xsum (r.take (lenByte r + 1))

/-! ## Host control and faults -/

/-- STOP sets the stop flag and nothing else; the pending bytes, the emulator state and the trace stay. On a stopped
block it is not enabled, and after it neither PUSH nor FSTEP is (R192). That it is not enabled on a faulted block that is
not stopped either is log 9 (DEDUCED from R185 and R25, where R192 asks for stopped = 0 alone). -/
def Obligations.StopSetsTheStopFlag : Prop :=
  ∀ s : State, (s.Running → exec .stop s = .next { s with stopped := true }) ∧
    (¬ s.Running → ∃ r, exec .stop s = .refused r) ∧
    (s.stopped = true → (∃ r, exec .fstep s = .refused r) ∧ ∀ b, ∃ r, exec (.push b) s = .refused r)

/-- R200: RESET of a configuration that passes R202 is taken in every state, Stopped and Faulted ones too, and writes
every element of the block's state; PF is then quiescent. -/
def Obligations.ResetWritesEveryElement : Prop :=
  ∀ (cfg : Config) (s : State), configOk cfg = true →
    ∃ t, exec (.reset cfg) s = .next t ∧ t.config = cfg ∧ t.buf = [] ∧ t.stopped = false ∧ t.fault = none ∧
      t.channel = cfg.initChannel ∧ t.band = cfg.initBand ∧ t.preset = cfg.initPreset ∧ t.trace = [] ∧
      t.Quiescent

/-- R202: RESET is defined exactly for the configurations that pass every named check, and refused for the others. -/
def Obligations.ResetIsDefinedExactlyForWellFormedConfigs : Prop :=
  ∀ (cfg : Config) (s : State),
    let wf1 := [cfg.cmdPoll, cfg.cmdPower, cfg.cmdMode, cfg.cmdNow, cfg.cmdChUp, cfg.cmdChDown, cfg.cmdSat].Pairwise
      (fun a b => a ≠ b)
    let wf2 := cfg.cmdPoll.length ≤ 253 ∧ cfg.cmdPower.length ≤ 253 ∧ cfg.cmdMode.length ≤ 253 ∧
      cfg.cmdNow.length ≤ 253 ∧ cfg.cmdChUp.length ≤ 253 ∧ cfg.cmdChDown.length ≤ 253 ∧ cfg.cmdSat.length ≤ 253
    let wf3 := cfg.announce.length ≤ 253
    let wf4 := cfg.pfxPower.length + 2 ≤ 253 ∧ cfg.pfxMode.length + 2 ≤ 253 ∧
      cfg.pfxNow.length + 2 + cfg.nowText.length ≤ 253 ∧ cfg.pfxChUp.length + 2 ≤ 253 ∧
      cfg.pfxChDown.length + 2 ≤ 253 ∧ cfg.pfxSat.length + 2 + cfg.satText.length ≤ 253
    let wf5 := 0 ≤ cfg.initBand ∧ cfg.initBand ≤ 15 ∧ 0 ≤ cfg.initPreset ∧ cfg.initPreset ≤ 15
    let wf6 := 257 ≤ cfg.bufCap
    let ok := wf1 ∧ wf2 ∧ wf3 ∧ wf4 ∧ wf5 ∧ wf6
    (ok → ∃ t, exec (.reset cfg) s = .next t) ∧ (¬ ok → ∃ r, exec (.reset cfg) s = .refused r)

/-- R185, sticky: a fault record, once taken, stays through every operation but RESET; and so does the stop flag
(R24, R25). So no operation but RESET leads from a faulted state to a normal end of a run, which STOP leaves a normal end
(R209). -/
def Obligations.FaultAndStopFlagAreSticky : Prop :=
  ∀ (i : Instr) (s t : State), (∀ cfg, i ≠ .reset cfg) → exec i s = .next t →
    (∀ r, s.fault = some r → t.fault = some r) ∧ (s.stopped = true → t.stopped = true) ∧
      (s.fault ≠ none → ¬ t.NormalEnd) ∧ (i = .stop → s.NormalEnd → t.NormalEnd)

/-- R196: a halted block, Stopped or Faulted, keeps all of its state under every operation but RESET. -/
def Obligations.HaltedBlockKeepsAllState : Prop :=
  ∀ (i : Instr) (s t : State), (∀ cfg, i ≠ .reset cfg) → ¬ s.Running → exec i s = .next t → t.SameBlock s

/-! ## The whole machine -/

/-- R27, R28, R35: no operation but RESET writes the configuration, the band or the preset, and the trace only ever
grows (R36). -/
def Obligations.OnlyResetWritesConfigBandAndPreset : Prop :=
  ∀ (i : Instr) (s t : State), (∀ cfg, i ≠ .reset cfg) → exec i s = .next t →
    t.config = s.config ∧ t.band = s.band ∧ t.preset = s.preset ∧ ∃ evs, t.trace = s.trace ++ evs

/-- The frame of the buffer and the channel: only PUSH, the three DROP actions, EXTRACT and the operations that run
them (FSTEP, FEED), and RESET, write `buf` (R22); only CH_UP, CH_DOWN, what runs them (EXTRACT, FSTEP, FEED), and
RESET, write `channel` (R26); only STOP and RESET write `stopped` (R24). -/
def Obligations.OnlyTheNamedWritersWrite : Prop :=
  ∀ (i : Instr) (s t : State), (∀ cfg, i ≠ .reset cfg) → exec i s = .next t →
    ((∀ b, i ≠ .push b) → (∀ bs, i ≠ .feed bs) → i ≠ .fstep → i ≠ .extract → i ≠ .dropZeroLen →
      i ≠ .dropUnknownSrc → i ≠ .dropBadChecksum → t.buf = s.buf) ∧
    ((∀ f, i ≠ .chUp f) → (∀ f, i ≠ .chDown f) → (∀ bs, i ≠ .feed bs) → i ≠ .fstep → i ≠ .extract →
      t.channel = s.channel) ∧
    (i ≠ .stop → t.stopped = s.stopped)

/-- The frame of the model's own fields (log 3, log 4, log 14, log 15, the model's choices): only XSUM, XCHK, ENCODE
and FEED write `answer`, only FEED writes `line`, and no operation writes `requests`, `signals` or `feeding`. -/
def Obligations.ModelFieldsHaveNamedWriters : Prop :=
  ∀ (i : Instr) (s t : State), exec i s = .next t →
    t.requests = s.requests ∧ t.signals = s.signals ∧ t.feeding = s.feeding ∧
    ((∀ bs, i ≠ .feed bs) → t.line = s.line) ∧
    ((∀ bs, i ≠ .feed bs) → (∀ bs, i ≠ .xsum bs) → (∀ f, i ≠ .xchk f) →
      (∀ src dst cmd text, i ≠ .encode src dst cmd text) → t.answer = s.answer)

/-- R103 for every operation: if every frame reported so far passes XCHK, so does every frame reported after it. -/
def Obligations.EveryReportedFramePassesXchk : Prop :=
  ∀ (i : Instr) (s t : State), exec i s = .next t →
    (∀ f, Event.packetOut f ∈ s.trace → isFrame f = true ∧ xchk f = true) →
    ∀ f, Event.packetOut f ∈ t.trace → isFrame f = true ∧ xchk f = true

/-- The occupancy of the buffer (10_state.md, derived): at quiescence at most 256 bytes, and where there are two or
more, a recognized source byte and a length byte that announces more than has arrived. -/
def Obligations.QuiescentBufferIsShort : Prop :=
  ∀ s : State, s.Quiescent → s.buf.length ≤ 256 ∧
    (2 ≤ s.buf.length → 1 ≤ lenByte s.buf ∧ s.buf.length < lenByte s.buf + 2 ∧
      s.config.dev.getLsbD (s.buf.getD 0 0).toNat = true)

/-- The reset state, where the spec gives its values (R22, R24, R25, R36), with the example configuration, the model's
choice (log 2), and the host side empty (log 3, log 4, log 14): so a run that offers no byte is at its normal end
(R209). -/
def Obligations.ResetStateHoldsItsValues : Prop :=
  State.reset.buf = [] ∧ State.reset.stopped = false ∧ State.reset.fault = none ∧ State.reset.trace = [] ∧
    State.reset.Quiescent ∧ State.reset.config = Config.ex ∧ State.reset.channel = 1 ∧ State.reset.band = 1 ∧
    State.reset.preset = 1 ∧ State.reset.answer = none ∧ State.reset.line = [] ∧ State.reset.feeding = none ∧
    State.reset.requests = [] ∧ State.reset.signals = [] ∧ State.reset.NormalEnd

/-- The reset state satisfies the invariant (the example configuration is the model's choice, log 2). -/
def Obligations.ResetSatisfiesTheInvariant : Prop := State.reset.Inv

/-- Every step keeps the invariant of the block, whatever the configuration, the stream and the host's requests. -/
def Obligations.StepKeepsTheInvariant : Prop :=
  ∀ s t : State, s.Inv → step s = .next t → t.Inv

/-- A step performs what the host asks for (log 4 and log 14, the model's choices of where the host's plan stands): a
control step signalled for this step, whatever else is enabled (R189), which finds a FEED that is over ended (R119); else,
while no FEED is in progress, the next request of its program: a control step, or the start of a FEED, which puts the
bytes behind those the host holds (FEED of
the empty sequence ends at once, log 24). -/
def Obligations.StepRunsTheRequestedOperation : Prop :=
  ∀ s : State,
    (s.feeding = none ∨ ¬ s.FeedOver →
      (∀ rest, s.signals = some .stop :: rest → step s = exec .stop { s with signals := rest }) ∧
      ∀ cfg rest, s.signals = some (.reset cfg) :: rest → step s = exec (.reset cfg) { s with signals := rest }) ∧
    (∀ es, s.feeding = some es → s.FeedOver →
      (∀ rest, s.signals = some .stop :: rest →
        step s = exec .stop { s with signals := rest, feeding := none, answer := some (.fed es) }) ∧
      ∀ cfg rest, s.signals = some (.reset cfg) :: rest →
        step s = exec (.reset cfg) { s with signals := rest, feeding := none, answer := some (.fed es) }) ∧
    (s.Unsignalled → s.feeding = none →
      (∀ rest, s.requests = .control .stop :: rest → step s = exec .stop { s.afterSignal with requests := rest }) ∧
      (∀ cfg rest, s.requests = .control (.reset cfg) :: rest →
        step s = exec (.reset cfg) { s.afterSignal with requests := rest }) ∧
      (∀ b bs rest, s.requests = .feed (b :: bs) :: rest →
        step s = .next { s.afterSignal with
          requests := rest, line := s.line ++ b :: bs, feeding := some [] }) ∧
      ∀ rest, s.requests = .feed [] :: rest →
        step s = .next { s.afterSignal with requests := rest, answer := some (.fed []) })

/-- A step runs the decoded operation: on a running block the host asks nothing of, the action that the pending buffer
decodes to, which is FSTEP; at quiescence with room, PUSH of the next byte of the line, which leaves the line; a halted
block, and a quiescent one with an empty line or a full buffer, keep their state (R21, R112, R196, R203; log 4 and log 6 for the model's
choices). -/
def Obligations.StepRunsTheDecodedOperation : Prop :=
  ∀ s : State, s.Unsignalled → s.feeding = none → s.requests = [] →
    (¬ s.Running → step s = .next s.afterSignal) ∧
    (s.Running → ¬ s.Quiescent → ∀ i, decode s.config .head s.buf = .ok i →
      step s = exec i s.afterSignal ∧ step s = exec .fstep s.afterSignal) ∧
    (s.Running → s.Quiescent → s.buf.length < s.config.bufCap → ∀ b rest, s.line = b :: rest →
      ∀ i, decode s.config .line [b] = .ok i → step s = exec i { s.afterSignal with line := rest }) ∧
    (s.Running → s.Quiescent → s.line = [] ∨ s.config.bufCap ≤ s.buf.length → step s = .next s.afterSignal)

/-- The steps of the block are PUSH, FSTEP, STOP and RESET, each taken where it is enabled; every other step changes
nothing of the block. So ER, CV and PE have no step of their own (R12), FEED is none (R119), and at quiescence, where no
FSTEP is enabled, the block changes only by PUSH, STOP or RESET (R120). At a normal end of a run, whether stopped or not
(R209), there is nothing to push either: while the host asks for no STOP or RESET (log 4), each step completes, leaves the
block as it is, and is at a normal end again. -/
def Obligations.EveryStepIsPushFstepStopOrReset : Prop :=
  (∀ s t : State, step s = .next t →
    t.SameBlock s ∨
      ∃ i u, ((∃ b, i = .push b) ∨ (i = .fstep ∧ ¬ s.Quiescent) ∨ i = .stop ∨ ∃ cfg, i = .reset cfg) ∧
        exec i s = .next u ∧ t.SameBlock u) ∧
    ∀ s : State, s.NormalEnd → s.Unsignalled → (∀ r ∈ s.requests, ∃ bs, r = .feed bs) →
      ∃ t, step s = .next t ∧ t.SameBlock s ∧ t.NormalEnd

/-! ## Decoding -/

/-- Decode and encode agree on every well-formed operation that has an encoding (R76, R77, R111). -/
def Obligations.DecodeInvertsEncode : Prop :=
  ∀ (cfg : Config) (i : Instr) (p : Port) (bytes : List Byte), wellFormed cfg i = true →
    encode cfg i = some (p, bytes) → decode cfg p bytes = .ok i

/-- Every well-formed operation has a word, but for the rows whose encoding the opcode table gives as "none" (log 7). -/
def Obligations.EveryEncodableOperationHasAWord : Prop :=
  ∀ (cfg : Config) (i : Instr), wellFormed cfg i = true →
    ((∃ p bytes, encode cfg i = some (p, bytes)) ↔ hasNoEncoding i = false)

/-- Words written out from the spec's encodings decode to the operations they stand for, under the example
configuration of 95_test_vectors.md. -/
def Obligations.SpecWordsDecode : Prop :=
  decode Config.ex .line [0xD9] = .ok (.push 0xD9) ∧
    decode Config.ex .head [0x68, 0x00, 0x68] = .ok .dropZeroLen ∧
    decode Config.ex .head [0x00, 0x12, 0x99] = .ok .dropUnknownSrc ∧
    decode Config.ex .head [0x73, 0x68, 0x03, 0x73, 0xC1, 0xD9] = .ok .waitIncomplete ∧
    decode Config.ex .head [0x68, 0x03, 0x73, 0xC1, 0xD9, 0x73] = .ok .extract ∧
    decode Config.ex .head [0x68, 0x03, 0x73, 0xC1, 0xD8] = .ok .dropBadChecksum ∧
    decode Config.ex .frame [0x68, 0x03, 0x73, 0xC5, 0xDD] = .ok (.chUp [0x68, 0x03, 0x73, 0xC5, 0xDD]) ∧
    decode Config.ex .frame [0x68, 0x03, 0xFF, 0xC1, 0x55] = .ok (.ignore [0x68, 0x03, 0xFF, 0xC1, 0x55])
end

