-- ==== Sys2Proof/Laws/Boot.lean ====
section
/-! SUPPORT. The shape of a frame and the named configuration checks as propositions. -/

namespace Sys2Proof.Machine

theorem isFrame_iff (f : List Byte) : isFrame f = true ↔ 1 ≤ lenByte f ∧ f.length = lenByte f + 2 := by
  simp only [isFrame, Bool.and_eq_true, decide_eq_true_eq, beq_iff_eq]

theorem xchkDefined_iff (f : List Byte) : xchkDefined f = true ↔ 2 ≤ f.length ∧ lenByte f + 2 ≤ f.length := by
  simp only [xchkDefined, Bool.and_eq_true, decide_eq_true_eq]

theorem passes_wf1_iff (cfg : Config) : passes cfg .wf1 = true ↔ (commandFields cfg).Nodup := by
  simp only [passes, decide_eq_true_eq]

theorem passes_wf2_iff (cfg : Config) :
    passes cfg .wf2 = true ↔ ∀ c ∈ commandFields cfg, c.length ≤ Config.maxPayload := by
  simp only [passes, List.all_eq_true, decide_eq_true_eq]

theorem passes_wf3_iff (cfg : Config) : passes cfg .wf3 = true ↔ cfg.announce.length ≤ Config.maxPayload := by
  simp only [passes, decide_eq_true_eq]

theorem passes_wf4_iff (cfg : Config) :
    passes cfg .wf4 = true ↔ ∀ p ∈ statusFields cfg, p.1.length + 2 + p.2.length ≤ Config.maxPayload := by
  simp only [passes, List.all_eq_true, decide_eq_true_eq]

theorem passes_wf5_iff (cfg : Config) :
    passes cfg .wf5 = true ↔
      0 ≤ cfg.initBand ∧ cfg.initBand ≤ 15 ∧ 0 ≤ cfg.initPreset ∧ cfg.initPreset ≤ 15 := by
  simp only [passes, decide_eq_true_eq]

theorem passes_wf6_iff (cfg : Config) : passes cfg .wf6 = true ↔ 257 ≤ cfg.bufCap := by
  simp only [passes, decide_eq_true_eq]

/-- A configuration is well-formed iff it passes every named check (R202). -/
theorem configOk_iff (cfg : Config) : configOk cfg = true ↔ ∀ c, passes cfg c = true := by
  simp only [configOk, failedCheck, Option.isNone_iff_eq_none, List.find?_eq_none, configChecks]
  constructor
  · intro h c
    cases c <;> simpa using h _ (by simp)
  · intro h c _
    simp [h c]

end Sys2Proof.Machine
end

