-- ==== Sys2Proof/Laws/State.lean ====
section
/-! SUPPORT. One lemma per field per named operation of Machine/Ops.lean, each true by rfl, so that no proof unfolds a
record update. -/

namespace Sys2Proof.Machine

/-! ### bufPush -/

@[simp] theorem bufPush_config (b : Byte) (s : State) : (bufPush b s).config = s.config := rfl
@[simp] theorem bufPush_buf (b : Byte) (s : State) : (bufPush b s).buf = s.buf ++ [b] := rfl
@[simp] theorem bufPush_stopped (b : Byte) (s : State) : (bufPush b s).stopped = s.stopped := rfl
@[simp] theorem bufPush_fault (b : Byte) (s : State) : (bufPush b s).fault = s.fault := rfl
@[simp] theorem bufPush_channel (b : Byte) (s : State) : (bufPush b s).channel = s.channel := rfl
@[simp] theorem bufPush_band (b : Byte) (s : State) : (bufPush b s).band = s.band := rfl
@[simp] theorem bufPush_preset (b : Byte) (s : State) : (bufPush b s).preset = s.preset := rfl
@[simp] theorem bufPush_trace (b : Byte) (s : State) : (bufPush b s).trace = s.trace := rfl
@[simp] theorem bufPush_answer (b : Byte) (s : State) : (bufPush b s).answer = s.answer := rfl
@[simp] theorem bufPush_line (b : Byte) (s : State) : (bufPush b s).line = s.line := rfl
@[simp] theorem bufPush_requests (b : Byte) (s : State) : (bufPush b s).requests = s.requests := rfl
@[simp] theorem bufPush_feeding (b : Byte) (s : State) : (bufPush b s).feeding = s.feeding := rfl
@[simp] theorem bufPush_signals (b : Byte) (s : State) : (bufPush b s).signals = s.signals := rfl

/-! ### bufDropFront -/

@[simp] theorem bufDropFront_config (n : Nat) (s : State) : (bufDropFront n s).config = s.config := rfl
@[simp] theorem bufDropFront_buf (n : Nat) (s : State) : (bufDropFront n s).buf = s.buf.drop n := rfl
@[simp] theorem bufDropFront_stopped (n : Nat) (s : State) : (bufDropFront n s).stopped = s.stopped := rfl
@[simp] theorem bufDropFront_fault (n : Nat) (s : State) : (bufDropFront n s).fault = s.fault := rfl
@[simp] theorem bufDropFront_channel (n : Nat) (s : State) : (bufDropFront n s).channel = s.channel := rfl
@[simp] theorem bufDropFront_band (n : Nat) (s : State) : (bufDropFront n s).band = s.band := rfl
@[simp] theorem bufDropFront_preset (n : Nat) (s : State) : (bufDropFront n s).preset = s.preset := rfl
@[simp] theorem bufDropFront_trace (n : Nat) (s : State) : (bufDropFront n s).trace = s.trace := rfl
@[simp] theorem bufDropFront_answer (n : Nat) (s : State) : (bufDropFront n s).answer = s.answer := rfl
@[simp] theorem bufDropFront_line (n : Nat) (s : State) : (bufDropFront n s).line = s.line := rfl
@[simp] theorem bufDropFront_requests (n : Nat) (s : State) : (bufDropFront n s).requests = s.requests := rfl
@[simp] theorem bufDropFront_feeding (n : Nat) (s : State) : (bufDropFront n s).feeding = s.feeding := rfl
@[simp] theorem bufDropFront_signals (n : Nat) (s : State) : (bufDropFront n s).signals = s.signals := rfl

/-! ### emit -/

@[simp] theorem emit_config (e : Event) (s : State) : (emit e s).config = s.config := rfl
@[simp] theorem emit_buf (e : Event) (s : State) : (emit e s).buf = s.buf := rfl
@[simp] theorem emit_stopped (e : Event) (s : State) : (emit e s).stopped = s.stopped := rfl
@[simp] theorem emit_fault (e : Event) (s : State) : (emit e s).fault = s.fault := rfl
@[simp] theorem emit_channel (e : Event) (s : State) : (emit e s).channel = s.channel := rfl
@[simp] theorem emit_band (e : Event) (s : State) : (emit e s).band = s.band := rfl
@[simp] theorem emit_preset (e : Event) (s : State) : (emit e s).preset = s.preset := rfl
@[simp] theorem emit_trace (e : Event) (s : State) : (emit e s).trace = s.trace ++ [e] := rfl
@[simp] theorem emit_answer (e : Event) (s : State) : (emit e s).answer = s.answer := rfl
@[simp] theorem emit_line (e : Event) (s : State) : (emit e s).line = s.line := rfl
@[simp] theorem emit_requests (e : Event) (s : State) : (emit e s).requests = s.requests := rfl
@[simp] theorem emit_feeding (e : Event) (s : State) : (emit e s).feeding = s.feeding := rfl
@[simp] theorem emit_signals (e : Event) (s : State) : (emit e s).signals = s.signals := rfl

/-! ### setChannel -/

@[simp] theorem setChannel_config (c : Int) (s : State) : (setChannel c s).config = s.config := rfl
@[simp] theorem setChannel_buf (c : Int) (s : State) : (setChannel c s).buf = s.buf := rfl
@[simp] theorem setChannel_stopped (c : Int) (s : State) : (setChannel c s).stopped = s.stopped := rfl
@[simp] theorem setChannel_fault (c : Int) (s : State) : (setChannel c s).fault = s.fault := rfl
@[simp] theorem setChannel_channel (c : Int) (s : State) : (setChannel c s).channel = c := rfl
@[simp] theorem setChannel_band (c : Int) (s : State) : (setChannel c s).band = s.band := rfl
@[simp] theorem setChannel_preset (c : Int) (s : State) : (setChannel c s).preset = s.preset := rfl
@[simp] theorem setChannel_trace (c : Int) (s : State) : (setChannel c s).trace = s.trace := rfl
@[simp] theorem setChannel_answer (c : Int) (s : State) : (setChannel c s).answer = s.answer := rfl
@[simp] theorem setChannel_line (c : Int) (s : State) : (setChannel c s).line = s.line := rfl
@[simp] theorem setChannel_requests (c : Int) (s : State) : (setChannel c s).requests = s.requests := rfl
@[simp] theorem setChannel_feeding (c : Int) (s : State) : (setChannel c s).feeding = s.feeding := rfl
@[simp] theorem setChannel_signals (c : Int) (s : State) : (setChannel c s).signals = s.signals := rfl

/-! ### setStopped -/

@[simp] theorem setStopped_config (s : State) : (setStopped s).config = s.config := rfl
@[simp] theorem setStopped_buf (s : State) : (setStopped s).buf = s.buf := rfl
@[simp] theorem setStopped_stopped (s : State) : (setStopped s).stopped = true := rfl
@[simp] theorem setStopped_fault (s : State) : (setStopped s).fault = s.fault := rfl
@[simp] theorem setStopped_channel (s : State) : (setStopped s).channel = s.channel := rfl
@[simp] theorem setStopped_band (s : State) : (setStopped s).band = s.band := rfl
@[simp] theorem setStopped_preset (s : State) : (setStopped s).preset = s.preset := rfl
@[simp] theorem setStopped_trace (s : State) : (setStopped s).trace = s.trace := rfl
@[simp] theorem setStopped_answer (s : State) : (setStopped s).answer = s.answer := rfl
@[simp] theorem setStopped_line (s : State) : (setStopped s).line = s.line := rfl
@[simp] theorem setStopped_requests (s : State) : (setStopped s).requests = s.requests := rfl
@[simp] theorem setStopped_feeding (s : State) : (setStopped s).feeding = s.feeding := rfl
@[simp] theorem setStopped_signals (s : State) : (setStopped s).signals = s.signals := rfl

/-! ### answerWith -/

@[simp] theorem answerWith_config (a : Answer) (s : State) : (answerWith a s).config = s.config := rfl
@[simp] theorem answerWith_buf (a : Answer) (s : State) : (answerWith a s).buf = s.buf := rfl
@[simp] theorem answerWith_stopped (a : Answer) (s : State) : (answerWith a s).stopped = s.stopped := rfl
@[simp] theorem answerWith_fault (a : Answer) (s : State) : (answerWith a s).fault = s.fault := rfl
@[simp] theorem answerWith_channel (a : Answer) (s : State) : (answerWith a s).channel = s.channel := rfl
@[simp] theorem answerWith_band (a : Answer) (s : State) : (answerWith a s).band = s.band := rfl
@[simp] theorem answerWith_preset (a : Answer) (s : State) : (answerWith a s).preset = s.preset := rfl
@[simp] theorem answerWith_trace (a : Answer) (s : State) : (answerWith a s).trace = s.trace := rfl
@[simp] theorem answerWith_answer (a : Answer) (s : State) : (answerWith a s).answer = some a := rfl
@[simp] theorem answerWith_line (a : Answer) (s : State) : (answerWith a s).line = s.line := rfl
@[simp] theorem answerWith_requests (a : Answer) (s : State) : (answerWith a s).requests = s.requests := rfl
@[simp] theorem answerWith_feeding (a : Answer) (s : State) : (answerWith a s).feeding = s.feeding := rfl
@[simp] theorem answerWith_signals (a : Answer) (s : State) : (answerWith a s).signals = s.signals := rfl

/-! ### holdOnLine -/

@[simp] theorem holdOnLine_config (bs : List Byte) (s : State) : (holdOnLine bs s).config = s.config := rfl
@[simp] theorem holdOnLine_buf (bs : List Byte) (s : State) : (holdOnLine bs s).buf = s.buf := rfl
@[simp] theorem holdOnLine_stopped (bs : List Byte) (s : State) : (holdOnLine bs s).stopped = s.stopped := rfl
@[simp] theorem holdOnLine_fault (bs : List Byte) (s : State) : (holdOnLine bs s).fault = s.fault := rfl
@[simp] theorem holdOnLine_channel (bs : List Byte) (s : State) : (holdOnLine bs s).channel = s.channel := rfl
@[simp] theorem holdOnLine_band (bs : List Byte) (s : State) : (holdOnLine bs s).band = s.band := rfl
@[simp] theorem holdOnLine_preset (bs : List Byte) (s : State) : (holdOnLine bs s).preset = s.preset := rfl
@[simp] theorem holdOnLine_trace (bs : List Byte) (s : State) : (holdOnLine bs s).trace = s.trace := rfl
@[simp] theorem holdOnLine_answer (bs : List Byte) (s : State) : (holdOnLine bs s).answer = s.answer := rfl
@[simp] theorem holdOnLine_line (bs : List Byte) (s : State) : (holdOnLine bs s).line = s.line ++ bs := rfl
@[simp] theorem holdOnLine_requests (bs : List Byte) (s : State) : (holdOnLine bs s).requests = s.requests := rfl
@[simp] theorem holdOnLine_feeding (bs : List Byte) (s : State) : (holdOnLine bs s).feeding = s.feeding := rfl
@[simp] theorem holdOnLine_signals (bs : List Byte) (s : State) : (holdOnLine bs s).signals = s.signals := rfl

/-! ### takeLine -/

@[simp] theorem takeLine_config (s : State) : (takeLine s).config = s.config := rfl
@[simp] theorem takeLine_buf (s : State) : (takeLine s).buf = s.buf := rfl
@[simp] theorem takeLine_stopped (s : State) : (takeLine s).stopped = s.stopped := rfl
@[simp] theorem takeLine_fault (s : State) : (takeLine s).fault = s.fault := rfl
@[simp] theorem takeLine_channel (s : State) : (takeLine s).channel = s.channel := rfl
@[simp] theorem takeLine_band (s : State) : (takeLine s).band = s.band := rfl
@[simp] theorem takeLine_preset (s : State) : (takeLine s).preset = s.preset := rfl
@[simp] theorem takeLine_trace (s : State) : (takeLine s).trace = s.trace := rfl
@[simp] theorem takeLine_answer (s : State) : (takeLine s).answer = s.answer := rfl
@[simp] theorem takeLine_line (s : State) : (takeLine s).line = [] := rfl
@[simp] theorem takeLine_requests (s : State) : (takeLine s).requests = s.requests := rfl
@[simp] theorem takeLine_feeding (s : State) : (takeLine s).feeding = s.feeding := rfl
@[simp] theorem takeLine_signals (s : State) : (takeLine s).signals = s.signals := rfl

/-! ### setFeeding -/

@[simp] theorem setFeeding_config (f : Option (List Event)) (s : State) : (setFeeding f s).config = s.config := rfl
@[simp] theorem setFeeding_buf (f : Option (List Event)) (s : State) : (setFeeding f s).buf = s.buf := rfl
@[simp] theorem setFeeding_stopped (f : Option (List Event)) (s : State) : (setFeeding f s).stopped = s.stopped := rfl
@[simp] theorem setFeeding_fault (f : Option (List Event)) (s : State) : (setFeeding f s).fault = s.fault := rfl
@[simp] theorem setFeeding_channel (f : Option (List Event)) (s : State) : (setFeeding f s).channel = s.channel := rfl
@[simp] theorem setFeeding_band (f : Option (List Event)) (s : State) : (setFeeding f s).band = s.band := rfl
@[simp] theorem setFeeding_preset (f : Option (List Event)) (s : State) : (setFeeding f s).preset = s.preset := rfl
@[simp] theorem setFeeding_trace (f : Option (List Event)) (s : State) : (setFeeding f s).trace = s.trace := rfl
@[simp] theorem setFeeding_answer (f : Option (List Event)) (s : State) : (setFeeding f s).answer = s.answer := rfl
@[simp] theorem setFeeding_line (f : Option (List Event)) (s : State) : (setFeeding f s).line = s.line := rfl
@[simp] theorem setFeeding_requests (f : Option (List Event)) (s : State) : (setFeeding f s).requests = s.requests := rfl
@[simp] theorem setFeeding_feeding (f : Option (List Event)) (s : State) : (setFeeding f s).feeding = f := rfl
@[simp] theorem setFeeding_signals (f : Option (List Event)) (s : State) : (setFeeding f s).signals = s.signals := rfl

/-! ### setRequests -/

@[simp] theorem setRequests_config (rs : List Request) (s : State) : (setRequests rs s).config = s.config := rfl
@[simp] theorem setRequests_buf (rs : List Request) (s : State) : (setRequests rs s).buf = s.buf := rfl
@[simp] theorem setRequests_stopped (rs : List Request) (s : State) : (setRequests rs s).stopped = s.stopped := rfl
@[simp] theorem setRequests_fault (rs : List Request) (s : State) : (setRequests rs s).fault = s.fault := rfl
@[simp] theorem setRequests_channel (rs : List Request) (s : State) : (setRequests rs s).channel = s.channel := rfl
@[simp] theorem setRequests_band (rs : List Request) (s : State) : (setRequests rs s).band = s.band := rfl
@[simp] theorem setRequests_preset (rs : List Request) (s : State) : (setRequests rs s).preset = s.preset := rfl
@[simp] theorem setRequests_trace (rs : List Request) (s : State) : (setRequests rs s).trace = s.trace := rfl
@[simp] theorem setRequests_answer (rs : List Request) (s : State) : (setRequests rs s).answer = s.answer := rfl
@[simp] theorem setRequests_line (rs : List Request) (s : State) : (setRequests rs s).line = s.line := rfl
@[simp] theorem setRequests_requests (rs : List Request) (s : State) : (setRequests rs s).requests = rs := rfl
@[simp] theorem setRequests_feeding (rs : List Request) (s : State) : (setRequests rs s).feeding = s.feeding := rfl
@[simp] theorem setRequests_signals (rs : List Request) (s : State) : (setRequests rs s).signals = s.signals := rfl

/-! ### setSignals -/

@[simp] theorem setSignals_config (cs : List (Option Control)) (s : State) : (setSignals cs s).config = s.config := rfl
@[simp] theorem setSignals_buf (cs : List (Option Control)) (s : State) : (setSignals cs s).buf = s.buf := rfl
@[simp] theorem setSignals_stopped (cs : List (Option Control)) (s : State) : (setSignals cs s).stopped = s.stopped := rfl
@[simp] theorem setSignals_fault (cs : List (Option Control)) (s : State) : (setSignals cs s).fault = s.fault := rfl
@[simp] theorem setSignals_channel (cs : List (Option Control)) (s : State) : (setSignals cs s).channel = s.channel := rfl
@[simp] theorem setSignals_band (cs : List (Option Control)) (s : State) : (setSignals cs s).band = s.band := rfl
@[simp] theorem setSignals_preset (cs : List (Option Control)) (s : State) : (setSignals cs s).preset = s.preset := rfl
@[simp] theorem setSignals_trace (cs : List (Option Control)) (s : State) : (setSignals cs s).trace = s.trace := rfl
@[simp] theorem setSignals_answer (cs : List (Option Control)) (s : State) : (setSignals cs s).answer = s.answer := rfl
@[simp] theorem setSignals_line (cs : List (Option Control)) (s : State) : (setSignals cs s).line = s.line := rfl
@[simp] theorem setSignals_requests (cs : List (Option Control)) (s : State) : (setSignals cs s).requests = s.requests := rfl
@[simp] theorem setSignals_feeding (cs : List (Option Control)) (s : State) : (setSignals cs s).feeding = s.feeding := rfl
@[simp] theorem setSignals_signals (cs : List (Option Control)) (s : State) : (setSignals cs s).signals = cs := rfl

/-! ### raise -/

@[simp] theorem raise_config (r : FaultRecord) (s : State) : (raise r s).config = s.config := rfl
@[simp] theorem raise_buf (r : FaultRecord) (s : State) : (raise r s).buf = s.buf := rfl
@[simp] theorem raise_stopped (r : FaultRecord) (s : State) : (raise r s).stopped = s.stopped := rfl
@[simp] theorem raise_fault (r : FaultRecord) (s : State) : (raise r s).fault = some r := rfl
@[simp] theorem raise_channel (r : FaultRecord) (s : State) : (raise r s).channel = s.channel := rfl
@[simp] theorem raise_band (r : FaultRecord) (s : State) : (raise r s).band = s.band := rfl
@[simp] theorem raise_preset (r : FaultRecord) (s : State) : (raise r s).preset = s.preset := rfl
@[simp] theorem raise_trace (r : FaultRecord) (s : State) : (raise r s).trace = s.trace ++ [.faultRaised r] := rfl
@[simp] theorem raise_answer (r : FaultRecord) (s : State) : (raise r s).answer = s.answer := rfl
@[simp] theorem raise_line (r : FaultRecord) (s : State) : (raise r s).line = s.line := rfl
@[simp] theorem raise_requests (r : FaultRecord) (s : State) : (raise r s).requests = s.requests := rfl
@[simp] theorem raise_feeding (r : FaultRecord) (s : State) : (raise r s).feeding = s.feeding := rfl
@[simp] theorem raise_signals (r : FaultRecord) (s : State) : (raise r s).signals = s.signals := rfl

/-! ### loadConfig -/

@[simp] theorem loadConfig_config (cfg : Config) (s : State) : (loadConfig cfg s).config = cfg := rfl
@[simp] theorem loadConfig_buf (cfg : Config) (s : State) : (loadConfig cfg s).buf = [] := rfl
@[simp] theorem loadConfig_stopped (cfg : Config) (s : State) : (loadConfig cfg s).stopped = false := rfl
@[simp] theorem loadConfig_fault (cfg : Config) (s : State) : (loadConfig cfg s).fault = none := rfl
@[simp] theorem loadConfig_channel (cfg : Config) (s : State) : (loadConfig cfg s).channel = cfg.initChannel := rfl
@[simp] theorem loadConfig_band (cfg : Config) (s : State) : (loadConfig cfg s).band = cfg.initBand := rfl
@[simp] theorem loadConfig_preset (cfg : Config) (s : State) : (loadConfig cfg s).preset = cfg.initPreset := rfl
@[simp] theorem loadConfig_trace (cfg : Config) (s : State) : (loadConfig cfg s).trace = [] := rfl
@[simp] theorem loadConfig_answer (cfg : Config) (s : State) : (loadConfig cfg s).answer = s.answer := rfl
@[simp] theorem loadConfig_line (cfg : Config) (s : State) : (loadConfig cfg s).line = s.line := rfl
@[simp] theorem loadConfig_requests (cfg : Config) (s : State) : (loadConfig cfg s).requests = s.requests := rfl
@[simp] theorem loadConfig_feeding (cfg : Config) (s : State) : (loadConfig cfg s).feeding = s.feeding := rfl
@[simp] theorem loadConfig_signals (cfg : Config) (s : State) : (loadConfig cfg s).signals = s.signals := rfl

end Sys2Proof.Machine
end

