-- ==== Sys2Proof/Laws/Ops.lean ====
section
/-! SUPPORT. For each shared operation one lemma that says once everything it can do; proofs cite these instead of
unfolding the operation. -/

namespace Sys2Proof.Machine

/-! ### The guards -/

theorem halted_eq_false_iff (s : State) : halted s = false ↔ s.Running := by
  cases h : s.fault <;> simp [halted, State.Running, h]

theorem halted_eq_true_iff (s : State) : halted s = true ↔ ¬ s.Running := by
  rw [← halted_eq_false_iff]; simp

theorem whenRunning_of_running {s : State} (h : s.Running) (o : Result) : whenRunning s o = o := by
  simp [whenRunning, h.1, h.2]

theorem whenRunning_of_not_running {s : State} (h : ¬ s.Running) (o : Result) :
    ∃ r, whenRunning s o = .refused r := by
  cases hf : s.fault with
  | some r => exact ⟨.faulted r, by simp [whenRunning, hf]⟩
  | none => exact ⟨.stopped, by simp_all [whenRunning, State.Running]⟩

/-- A guarded step answers a next state exactly where the block runs and the step does. -/
theorem whenRunning_eq_next {s t : State} {o : Result} :
    whenRunning s o = .next t ↔ s.Running ∧ o = .next t := by
  by_cases h : s.Running
  · rw [whenRunning_of_running h]; exact ⟨fun e => ⟨h, e⟩, fun e => e.2⟩
  · obtain ⟨r, hr⟩ := whenRunning_of_not_running h o
    rw [hr]; exact ⟨fun e => (nomatch e), fun e => absurd e.1 h⟩

theorem whenKind_eq_next {k : Kind} {f : List Byte} {s t u : State} :
    whenKind k f s u = .next t ↔ s.Running ∧ isFrame f = true ∧ kindOf s.config f = k ∧ u = t := by
  simp only [whenKind, whenRunning_eq_next]
  by_cases hf : isFrame f = true <;> by_cases hk : kindOf s.config f = k <;> simp [hf, hk]

theorem whenKind_of_not {k : Kind} {f : List Byte} {s : State} (u : State)
    (h : isFrame f = false ∨ kindOf s.config f ≠ k) : ∃ r, whenKind k f s u = .refused r := by
  by_cases hr : s.Running
  · rw [whenKind, whenRunning_of_running hr]
    by_cases hf : isFrame f = true
    · rw [if_pos hf, if_neg (by simpa [hf] using h)]; exact ⟨_, rfl⟩
    · rw [if_neg hf]; exact ⟨_, rfl⟩
  · exact whenRunning_of_not_running hr _

theorem whenAction_eq_next {a : Action} {s t u : State} :
    whenAction a s u = .next t ↔ classify s.config s.buf = a ∧ u = t := by
  by_cases h : classify s.config s.buf = a <;> simp [whenAction, h]

theorem whenAction_of_ne {a : Action} {s : State} (u : State) (h : classify s.config s.buf ≠ a) :
    whenAction a s u = .refused (.otherAction (classify s.config s.buf)) := by
  simp [whenAction, h]

/-! ### CV -/

theorem foldl_xor_eq (s : List Byte) (a : Byte) : s.foldl (fun acc b => acc ^^^ b) a = a ^^^ xsum s := by
  induction s generalizing a with
  | nil => simp [xsum]
  | cons b s ih =>
    have h0 : xsum (b :: s) = b ^^^ xsum s := by
      have := ih (0 ^^^ b)
      simpa [xsum] using this
    rw [List.foldl_cons, ih, h0, BitVec.xor_assoc]

@[simp] theorem xsum_nil : xsum [] = 0 := rfl

theorem xsum_cons (b : Byte) (s : List Byte) : xsum (b :: s) = b ^^^ xsum s := by
  have := foldl_xor_eq s (0 ^^^ b)
  simpa [xsum] using this

/-! ### PE -/

/-- Everything ENCODE can do: the frame of at most 253 payload bytes, or the fault of a longer one. -/
theorem encodeFrame_cases (src dst : Byte) (cmd text : List Byte) :
    (cmd.length + text.length ≤ 253 ∧ encodeFrame src dst cmd text =
        .ok ([src, BitVec.ofNat 8 (cmd.length + text.length + 2), dst] ++ (cmd ++ text) ++
          [xsum ([src, BitVec.ofNat 8 (cmd.length + text.length + 2), dst] ++ (cmd ++ text))])) ∨
      (253 < cmd.length + text.length ∧ encodeFrame src dst cmd text =
        .error ⟨.encodeTooLong, ((cmd.length + text.length : Nat) : Int)⟩) := by
  by_cases h : cmd.length + text.length ≤ 253
  · left
    refine ⟨h, ?_⟩
    simp [encodeFrame, Config.maxPayload, Nat.not_lt.mpr h]
  · right
    refine ⟨by omega, ?_⟩
    simp [encodeFrame, Config.maxPayload, Nat.lt_of_not_le h]

/-! ### ER -/

theorem toByte_of_range {v : Int} (h0 : 0 ≤ v) (h1 : v ≤ 255) : toByte v = some (BitVec.ofNat 8 v.toNat) := by
  simp [toByte, h0, h1]

theorem toByte_of_out {v : Int} (h : v < 0 ∨ 255 < v) : toByte v = none := by
  simp only [toByte, ite_eq_right_iff, reduceCtorEq, imp_false, not_and]
  omega

/-- Everything STATE() can do: two bytes, or the channel fault. -/
theorem stateBytes_cases (s : State) :
    (∃ c p, stateBytes s = .ok [c, p]) ∨ ∃ v, (v < 0 ∨ 255 < v) ∧ stateBytes s = .error ⟨.channelOutOfRange, v⟩ := by
  have key (v : Int) : (∃ b, toByte v = some b) ∨ ((v < 0 ∨ 255 < v) ∧ toByte v = none) := by
    by_cases h : 0 ≤ v ∧ v ≤ 255
    · exact .inl ⟨_, toByte_of_range h.1 h.2⟩
    · exact .inr ⟨by omega, toByte_of_out (by omega)⟩
  unfold stateBytes
  rcases key s.channel with ⟨c, hc⟩ | ⟨hr, hc⟩
  · rcases key s.band with ⟨b, hb⟩ | ⟨hr, hb⟩
    · rcases key s.preset with ⟨p, hp⟩ | ⟨hr, hp⟩
      · exact .inl ⟨c, (b <<< 4) ||| p, by simp [hc, hb, hp]⟩
      · exact .inr ⟨_, hr, by simp [hc, hb, hp]⟩
    · exact .inr ⟨_, hr, by simp [hc, hb]⟩
  · exact .inr ⟨_, hr, by simp [hc]⟩

/-- Everything sending a reply can do: one ReplyOut of an encoded frame from 0x73, or one fault. -/
theorem sendReply_cases (f cmd text : List Byte) (s : State) :
    (∃ r, encodeFrame Config.emuAddr (replyDst s.config f) cmd text = .ok r ∧
        sendReply f cmd text s = emit (.replyOut r) s) ∨
      ∃ e, encodeFrame Config.emuAddr (replyDst s.config f) cmd text = .error e ∧
        sendReply f cmd text s = raise e s := by
  unfold sendReply
  cases encodeFrame Config.emuAddr (replyDst s.config f) cmd text with
  | ok r => exact .inl ⟨r, rfl, rfl⟩
  | error e => exact .inr ⟨e, rfl, rfl⟩

/-- What ER can do to a state, said once: it may move the channel by one, and then it does nothing, or emits one
ReplyOut of an encoded frame from 0x73, or reports the frame as unhandled, or takes one fault. -/
def Reacts (f : List Byte) (s t : State) : Prop :=
  ∃ c : Int, (c = s.channel ∨ c = s.channel + 1 ∨ c = s.channel - 1) ∧
    (t = setChannel c s ∨
      (∃ cmd text r, encodeFrame Config.emuAddr (replyDst s.config f) cmd text = .ok r ∧
        t = emit (.replyOut r) (setChannel c s)) ∨
      (kindOf s.config f = .unhandled ∧ t = emit (.unhandled f) (setChannel c s)) ∨
      ∃ e, t = raise e (setChannel c s))

theorem setChannel_self (s : State) : setChannel s.channel s = s := rfl

theorem sendReply_reacts (f cmd text : List Byte) (s : State) {c : Int}
    (hc : c = s.channel ∨ c = s.channel + 1 ∨ c = s.channel - 1) :
    Reacts f s (sendReply f cmd text (setChannel c s)) := by
  refine ⟨c, hc, ?_⟩
  rcases sendReply_cases f cmd text (setChannel c s) with ⟨r, he, h⟩ | ⟨e, _, h⟩
  · exact .inr (.inl ⟨cmd, text, r, by simpa using he, h⟩)
  · exact .inr (.inr (.inr ⟨e, h⟩))

theorem statusReply_reacts (f pfx text : List Byte) (s : State) {c : Int}
    (hc : c = s.channel ∨ c = s.channel + 1 ∨ c = s.channel - 1) :
    Reacts f s (statusReply f pfx text (setChannel c s)) := by
  rcases stateBytes_cases (setChannel c s) with ⟨a, b, h⟩ | ⟨v, _, h⟩
  · simp only [statusReply, h]
    exact sendReply_reacts f _ text s hc
  · exact ⟨c, hc, .inr (.inr (.inr ⟨_, by simp only [statusReply, h]; rfl⟩))⟩

/-- Everything `ER.handle` can do. -/
theorem handle_reacts (f : List Byte) (s : State) : Reacts f s (handle f s) := by
  unfold handle
  cases h : kindOf s.config f with
  | ignore => exact ⟨s.channel, .inl rfl, .inl rfl⟩
  | poll => exact sendReply_reacts f _ _ s (c := s.channel) (.inl rfl)
  | power => exact statusReply_reacts f _ _ s (c := s.channel) (.inl rfl)
  | mode => exact statusReply_reacts f _ _ s (c := s.channel) (.inl rfl)
  | now => exact statusReply_reacts f _ _ s (c := s.channel) (.inl rfl)
  | chUp => exact statusReply_reacts f _ _ s (.inr (.inl rfl))
  | chDown => exact statusReply_reacts f _ _ s (.inr (.inr rfl))
  | sat => exact statusReply_reacts f _ _ s (c := s.channel) (.inl rfl)
  | unhandled => exact ⟨s.channel, .inl rfl, .inr (.inr (.inl ⟨h, rfl⟩))⟩

end Sys2Proof.Machine
end

