-- ==== Sys2Proof/Laws/Framer.lean ====
section
/-! SUPPORT. What PF's steps and FEED can do, said once, and the inductions over them. -/

namespace Sys2Proof.Machine

/-- The test of row 2 of R76 on the length byte. -/
abbrev BadLength (cfg : Config) (len : Byte) : Prop := len = 0 ∨ (len = 1 ∧ cfg.acceptLen1 = false)

theorem buf_cases (buf : List Byte) : buf.length < 2 ∨ ∃ a len rest, buf = a :: len :: rest := by
  rcases buf with _ | ⟨a, _ | ⟨len, rest⟩⟩
  · simp
  · simp
  · exact .inr ⟨a, len, rest, rfl⟩

theorem classify_short (cfg : Config) {buf : List Byte} (h : buf.length < 2) : classify cfg buf = .waitShort := by
  rcases buf with _ | ⟨a, _ | ⟨len, rest⟩⟩
  · rfl
  · rfl
  · simp at h

/-- `classify` on two or more bytes, as one chain of tests (R110). -/
theorem classify_cons (cfg : Config) (a len : Byte) (rest : List Byte) :
    classify cfg (a :: len :: rest) =
      if BadLength cfg len then .dropZeroLen
      else if recognized cfg a = false then .dropUnknownSrc
      else if rest.length < len.toNat then .waitIncomplete
      else if xchk (a :: len :: rest) = true then .extract
      else .dropBadChecksum := by
  by_cases h0 : len = 0
  · simp [classify, BadLength, h0]
  · by_cases h1 : len = 1 ∧ cfg.acceptLen1 = false
    · simp [classify, BadLength, h1]
    · have hb : ¬ BadLength cfg len := not_or.2 ⟨h0, h1⟩
      simp only [classify, if_neg h0, if_neg h1, if_neg hb, List.length_cons, Nat.add_lt_add_iff_right]

theorem lenByte_cons (a len : Byte) (rest : List Byte) : lenByte (a :: len :: rest) = len.toNat := rfl

theorem lenByte_take (buf : List Byte) {k : Nat} (h : 2 ≤ k) : lenByte (buf.take k) = lenByte buf := by
  simp [lenByte, show 1 < k by omega]

/-- XCHK reads nothing beyond the checksum byte (R101). -/
theorem xchk_take (buf : List Byte) : xchk (buf.take (lenByte buf + 2)) = xchk buf := by
  simp [xchk, lenByte_take, List.take_take]

/-- Where EXTRACT is selected, a valid frame stands at the head of the buffer (R110, R103). -/
theorem classify_extract {cfg : Config} {buf : List Byte} (h : classify cfg buf = .extract) :
    isFrame (buf.take (lenByte buf + 2)) = true ∧ xchk (buf.take (lenByte buf + 2)) = true ∧
      lenByte buf + 2 ≤ buf.length := by
  rcases buf_cases buf with hs | ⟨a, len, rest, rfl⟩
  · simp [classify_short cfg hs] at h
  · rw [classify_cons] at h
    by_cases hb : BadLength cfg len
    · simp [hb] at h
    by_cases hd : recognized cfg a = false
    · simp [hb, hd] at h
    by_cases hl : rest.length < len.toNat
    · simp [hb, hd, hl] at h
    by_cases hx : xchk (a :: len :: rest) = true
    swap
    · simp [hb, hd, hl, hx] at h
    have hpos : 1 ≤ len.toNat := by
      have : len ≠ 0 := fun e => hb (.inl e)
      rcases Nat.eq_zero_or_pos len.toNat with h0 | h0
      · exact absurd (BitVec.eq_of_toNat_eq (by simpa using h0)) this
      · exact h0
    have hle : lenByte (a :: len :: rest) + 2 ≤ (a :: len :: rest).length := by
      simp only [lenByte_cons, List.length_cons]; omega
    have hlb := lenByte_take (a :: len :: rest) (k := lenByte (a :: len :: rest) + 2) (by omega)
    refine ⟨?_, by rw [xchk_take]; exact hx, hle⟩
    rw [isFrame, hlb, List.length_take, Nat.min_eq_left hle]
    simp only [lenByte_cons, BEq.rfl, Bool.and_true]; exact decide_eq_true hpos

/-- Everything an FSTEP can do: drop the first of two or more bytes with some cause, or take a valid frame off the
head, report it and let ER handle it (R112, R121). -/
theorem frameStep_cases {s t : State} (h : frameStep s = some t) :
    s.Running ∧ ¬ s.Quiescent ∧
      ((∃ a len rest c, s.buf = a :: len :: rest ∧ t = emit (.dropped a c) (bufDropFront 1 s)) ∨
        ∃ f rest, s.buf = f ++ rest ∧ isFrame f = true ∧ xchk f = true ∧ classify s.config s.buf = .extract ∧
          f.length = headSize s ∧ t = handle f (emit (.packetOut f) (bufDropFront f.length s))) := by
  unfold frameStep at h
  split at h
  · exact absurd h (by simp)
  rename_i hh
  have hr : s.Running := (halted_eq_false_iff s).1 (by simpa using hh)
  have drop (c : Cause) (hd : some (dropFirst c s) = some t) (hq : classify s.config s.buf ≠ .waitShort) :
      ∃ a len rest c, s.buf = a :: len :: rest ∧ t = emit (.dropped a c) (bufDropFront 1 s) := by
    rcases buf_cases s.buf with hs | ⟨a, len, rest, hb⟩
    · exact absurd (classify_short s.config hs) hq
    · refine ⟨a, len, rest, c, hb, ?_⟩
      have : bufRead 0 s = a := by simp [bufRead, hb]
      rw [← Option.some.inj hd, dropFirst, this]
  cases hc : classify s.config s.buf with
  | waitShort => simp [hc, performAction] at h
  | waitIncomplete => simp [hc, performAction] at h
  | dropZeroLen =>
    rw [hc] at h
    exact ⟨hr, by simp [State.Quiescent, phase, hc, Action.phase], .inl (drop _ h (by simp [hc]))⟩
  | dropUnknownSrc =>
    rw [hc] at h
    exact ⟨hr, by simp [State.Quiescent, phase, hc, Action.phase], .inl (drop _ h (by simp [hc]))⟩
  | dropBadChecksum =>
    rw [hc] at h
    exact ⟨hr, by simp [State.Quiescent, phase, hc, Action.phase], .inl (drop _ h (by simp [hc]))⟩
  | extract =>
    rw [hc] at h
    obtain ⟨hf, hx, hl⟩ := classify_extract hc
    have hsz : headSize s = lenByte s.buf + 2 := rfl
    have hlen : (s.buf.take (lenByte s.buf + 2)).length = headSize s := by
      rw [List.length_take, hsz]; omega
    refine ⟨hr, by simp [State.Quiescent, phase, hc, Action.phase], .inr ⟨s.buf.take (lenByte s.buf + 2),
      s.buf.drop (lenByte s.buf + 2), (List.take_append_drop _ _).symm, hf, hx, rfl, hlen, ?_⟩⟩
    rw [hlen, ← Option.some.inj h, performExtract, hsz]

/-- Where the block runs and PF is not quiescent, FSTEP is enabled (R112). -/
theorem frameStep_isSome {s : State} (hr : s.Running) (hq : ¬ s.Quiescent) : ∃ t, frameStep s = some t := by
  have hh := (halted_eq_false_iff s).2 hr
  unfold frameStep
  simp only [State.Quiescent, phase] at hq
  cases hc : classify s.config s.buf <;> simp_all [performAction, Action.phase]

/-- Where FSTEP is not enabled, the block is halted or PF is quiescent (R112). -/
theorem frameStep_eq_none {s : State} : frameStep s = none ↔ ¬ s.Running ∨ s.Quiescent := by
  constructor
  · intro h
    by_contra hc
    obtain ⟨t, ht⟩ := frameStep_isSome (s := s) (by_contra fun e => hc (.inl e)) (fun e => hc (.inr e))
    simp [h] at ht
  · intro h
    cases ht : frameStep s with
    | none => rfl
    | some t =>
      obtain ⟨h1, h2, _⟩ := frameStep_cases ht
      exact absurd h (by rintro (h | h) <;> contradiction)

/-- FSTEP as an operation answers exactly what the partial step does (R112). -/
theorem execFstep_eq_next {s t : State} : execFstep s = .next t ↔ frameStep s = some t := by
  unfold execFstep
  rw [whenRunning_eq_next]
  constructor
  · rintro ⟨hr, h⟩
    rw [frameStep, (halted_eq_false_iff s).2 hr]
    cases hp : performAction (classify s.config s.buf) s with
    | none => simp [hp] at h
    | some u => simpa [hp] using h
  · intro h
    refine ⟨(frameStep_cases h).1, ?_⟩
    rw [frameStep, (halted_eq_false_iff s).2 (frameStep_cases h).1] at h
    simp only [Bool.false_eq_true, if_false] at h
    rw [h]

/-! ### The inductions -/

/-- What every FSTEP keeps, a run of FSTEPs keeps. -/
theorem settle_induct {P : State → Prop} (step : ∀ s t, P s → frameStep s = some t → P t) :
    ∀ n s, P s → P (settle n s) := by
  intro n
  induction n with
  | zero => exact fun s h => h
  | succ n ih =>
    intro s h
    unfold settle
    cases hf : frameStep s with
    | none => exact h
    | some t => exact ih t (step s t h hf)

theorem pushEnabled_iff (s : State) :
    pushEnabled s = true ↔ s.Running ∧ s.Quiescent ∧ s.buf.length < s.config.bufCap := by
  simp only [pushEnabled, Bool.and_eq_true, Bool.not_eq_true', halted_eq_false_iff, beq_iff_eq, decide_eq_true_eq,
    and_assoc]

/-- The results of FEED between two states, from the events between them (R119). -/
theorem feedResults_of_append {s t : State} {evs : List Event} (h : t.trace = s.trace ++ evs) :
    feedResults s t = evs.filter isFeedResult := by
  simp [feedResults, h]

/-- FEED of one byte or more, as one equation: the bytes the host holds are offered first (R119, log 14). -/
theorem execFeed_of_ne_nil {bs : List Byte} (h : bs ≠ []) (s : State) :
    execFeed bs s =
      .next (answerWith (.fed (feedResults s (feedBytes (s.line ++ bs) (takeLine s))))
        (feedBytes (s.line ++ bs) (takeLine s))) := by
  cases bs with
  | nil => exact absurd rfl h
  | cons b rest => rfl

/-- What every FSTEP, every enabled PUSH and every byte held keeps, FEED keeps (R119). -/
theorem feedBytes_induct {P : State → Prop} (step : ∀ s t, P s → frameStep s = some t → P t)
    (push : ∀ b s, P s → pushEnabled s = true → P (bufPush b s)) (hold : ∀ bs s, P s → P (holdOnLine bs s)) :
    ∀ bs s, P s → P (feedBytes bs s) := by
  intro bs
  induction bs with
  | nil => exact fun s h => h
  | cons b bs ih =>
    intro s h
    have hq : P (runToQuiescence s) := settle_induct step _ s h
    simp only [feedBytes]
    split
    · rename_i he
      exact ih _ (settle_induct step _ _ (push b _ hq he))
    · exact hold _ _ hq

/-- The shared shape of what ER does, for the step that extracts: what `Reacts` allows, a property kept by the
channel write and by the two emissions and the fault is kept by `handle`. -/
theorem handle_induct {P : State → Prop} {f : List Byte} {s : State} (hs : ∀ c, P (setChannel c s))
    (reply : ∀ c cmd text r, encodeFrame Config.emuAddr (replyDst s.config f) cmd text = .ok r →
      P (emit (.replyOut r) (setChannel c s)))
    (unhandled : ∀ c, kindOf s.config f = .unhandled → P (emit (.unhandled f) (setChannel c s)))
    (fault : ∀ c e, P (raise e (setChannel c s))) : P (handle f s) := by
  obtain ⟨c, _, h | ⟨cmd, text, r, he, h⟩ | ⟨hk, h⟩ | ⟨e, h⟩⟩ := handle_reacts f s
  · rw [h]; exact hs c
  · rw [h]; exact reply c cmd text r he
  · rw [h]; exact unhandled c hk
  · rw [h]; exact fault c e

/-! ### What an operation can do -/

/-- Everything an operation can do, said once, with the operations that do it: hand back a value, wait, PUSH, one
FSTEP, FEED, one reaction of ER to a frame, the fault of an over-long ENCODE, STOP, or RESET. -/
inductive Effect (i : Instr) (s : State) : State → Prop where
  | xsum (bs : List Byte) (hi : i = .xsum bs) : Effect i s (answerWith (.byte (xsum bs)) s)
  | xchk (f : List Byte) (hi : i = .xchk f) : Effect i s (answerWith (.bool (xchkAnswer f)) s)
  | encode (src dst : Byte) (cmd text r : List Byte) (hi : i = .encode src dst cmd text)
      (h : encodeFrame src dst cmd text = .ok r) : Effect i s (answerWith (.frame r) s)
  | encodeFault (src dst : Byte) (cmd text : List Byte) (e : FaultRecord) (hi : i = .encode src dst cmd text)
      (h : encodeFrame src dst cmd text = .error e) (hr : s.Running) : Effect i s (raise e s)
  | wait (hi : i = .waitShort ∨ i = .waitIncomplete) (hq : s.Quiescent) : Effect i s s
  | push (b : Byte) (hi : i = .push b) (h : pushEnabled s = true) : Effect i s (bufPush b s)
  | fstep (t : State) (hi : i = .fstep ∨ i = .extract) (h : frameStep s = some t) : Effect i s t
  | drop (c : Cause) (hi : i = .dropZeroLen ∨ i = .dropUnknownSrc ∨ i = .dropBadChecksum)
      (h : frameStep s = some (dropFirst c s)) : Effect i s (dropFirst c s)
  | feedNothing (hi : i = .feed []) : Effect i s (answerWith (.fed []) s)
  | feed (bs : List Byte) (hi : i = .feed bs) (hne : bs ≠ []) :
      Effect i s (answerWith (.fed (feedResults s (feedBytes (s.line ++ bs) (takeLine s))))
        (feedBytes (s.line ++ bs) (takeLine s)))
  | kind (k : Kind) (f : List Byte) (hi : i = kindInstr k f) (hr : s.Running) (hf : isFrame f = true)
      (hk : kindOf s.config f = k) : Effect i s (handle f s)
  | stop (hi : i = .stop) (hr : s.Running) : Effect i s (setStopped s)
  | reset (cfg : Config) (hi : i = .reset cfg) (h : configOk cfg = true) : Effect i s (loadConfig cfg s)

theorem whenKind_effect {i : Instr} {k : Kind} {f : List Byte} {s t u : State} (h : whenKind k f s u = .next t)
    (hi : i = kindInstr k f) (hu : kindOf s.config f = k → u = handle f s) : Effect i s t := by
  obtain ⟨hr, hf, hk, rfl⟩ := whenKind_eq_next.1 h
  rw [hu hk]
  exact .kind k f hi hr hf hk

theorem whenRunning_action_frameStep {a : Action} {s t u : State}
    (h : whenRunning s (whenAction a s u) = .next t) (hu : performAction a s = some u) :
    frameStep s = some u ∧ u = t := by
  obtain ⟨hr, h⟩ := whenRunning_eq_next.1 h
  obtain ⟨hc, rfl⟩ := whenAction_eq_next.1 h
  exact ⟨by rw [frameStep, (halted_eq_false_iff s).2 hr, hc]; exact hu, rfl⟩

theorem whenRunning_drop_effect {i : Instr} {a : Action} {c : Cause} {s t : State}
    (h : whenRunning s (whenAction a s (dropFirst c s)) = .next t)
    (hi : i = .dropZeroLen ∨ i = .dropUnknownSrc ∨ i = .dropBadChecksum)
    (hu : performAction a s = some (dropFirst c s)) : Effect i s t := by
  obtain ⟨hs, rfl⟩ := whenRunning_action_frameStep h hu
  exact .drop c hi hs

/-- The one inversion of `exec`. -/
theorem exec_effect {i : Instr} {s t : State} (h : exec i s = .next t) : Effect i s t := by
  cases i with
  | xsum bs => cases h; exact .xsum bs rfl
  | xchk f => cases h; exact .xchk f rfl
  | push b =>
    obtain ⟨hr, h⟩ := whenRunning_eq_next.1 h
    split at h
    · split at h
      · cases h; exact .push b rfl ((pushEnabled_iff s).2 ⟨hr, ‹_›, ‹_›⟩)
      · cases h
    · cases h
  | fstep => exact .fstep t (by simp) (execFstep_eq_next.1 h)
  | waitShort =>
    obtain ⟨hc, rfl⟩ := whenAction_eq_next.1 h
    exact .wait (by simp) (by simp [State.Quiescent, phase, hc, Action.phase])
  | waitIncomplete =>
    obtain ⟨hc, rfl⟩ := whenAction_eq_next.1 h
    exact .wait (by simp) (by simp [State.Quiescent, phase, hc, Action.phase])
  | dropZeroLen => exact whenRunning_drop_effect h (by simp) rfl
  | dropUnknownSrc => exact whenRunning_drop_effect h (by simp) rfl
  | dropBadChecksum => exact whenRunning_drop_effect h (by simp) rfl
  | extract =>
    obtain ⟨hs, rfl⟩ := whenRunning_action_frameStep h (u := performExtract s) rfl
    exact .fstep _ (by simp) hs
  | feed bs =>
    cases bs with
    | nil => cases h; exact .feedNothing rfl
    | cons b bs => cases h; exact .feed (b :: bs) rfl (by simp)
  | poll f => exact whenKind_effect h rfl fun hk => by simp [handle, hk]
  | power f => exact whenKind_effect h rfl fun hk => by simp [handle, hk]
  | mode f => exact whenKind_effect h rfl fun hk => by simp [handle, hk]
  | now f => exact whenKind_effect h rfl fun hk => by simp [handle, hk]
  | chUp f => exact whenKind_effect h rfl fun hk => by simp [handle, hk]
  | chDown f => exact whenKind_effect h rfl fun hk => by simp [handle, hk]
  | sat f => exact whenKind_effect h rfl fun hk => by simp [handle, hk]
  | unhandled f => exact whenKind_effect h rfl fun hk => by simp [handle, hk]
  | ignore f => exact whenKind_effect h rfl fun hk => by simp [handle, hk]
  | encode src dst cmd text =>
    change execEncode src dst cmd text s = _ at h
    unfold execEncode at h
    split at h
    · rename_i r hr
      cases h; exact .encode src dst cmd text r rfl hr
    · rename_i e he
      obtain ⟨hr, h⟩ := whenRunning_eq_next.1 h
      cases h; exact .encodeFault src dst cmd text e rfl he hr
  | stop =>
    obtain ⟨hr, h⟩ := whenRunning_eq_next.1 h
    cases h; exact .stop rfl hr
  | reset cfg =>
    change execReset cfg s = _ at h
    unfold execReset at h
    split at h
    · cases h
    · rename_i hc
      cases h; exact .reset cfg rfl (by simp [configOk, hc])

end Sys2Proof.Machine
end

