-- ==== Sys2Proof/Laws/PerInstr.lean ====
section
/-! SUPPORT. Per-operation laws, one lemma per constructor of `Instr`. -/

namespace Sys2Proof.Laws

/-- The port at which an operation's bits stand, after the "format" column of the opcode table: the line for the host
input step PUSH, the pending buffer for a PF decode row, the frame for an ER decode row, none for the rest. -/
def tablePort : Instr → Option Port
  | .push _ => some .line
  | .waitShort => some .head
  | .dropZeroLen => some .head
  | .dropUnknownSrc => some .head
  | .waitIncomplete => some .head
  | .extract => some .head
  | .dropBadChecksum => some .head
  | .poll _ => some .frame
  | .power _ => some .frame
  | .mode _ => some .frame
  | .now _ => some .frame
  | .chUp _ => some .frame
  | .chDown _ => some .frame
  | .sat _ => some .frame
  | .unhandled _ => some .frame
  | .ignore _ => some .frame
  | .xsum _ => none
  | .xchk _ => none
  | .fstep => none
  | .feed _ => none
  | .encode _ _ _ _ => none
  | .stop => none
  | .reset _ => none

/-- Wherever the encoder gives an operation bytes, they stand at the port of the operation's row. -/
def EncodesAtItsPort.Statement (i : Instr) : Prop :=
  ∀ (cfg : Config) (p : Port) (bytes : List Byte), encode cfg i = some (p, bytes) → tablePort i = some p

namespace EncodesAtItsPort

theorem xsum (s : List Byte) : Statement (.xsum s) := by
  intro cfg p bytes h
  simp [Sys2Proof.encode] at h

theorem xchk (f : List Byte) : Statement (.xchk f) := by
  intro cfg p bytes h
  simp [Sys2Proof.encode] at h

theorem push (b : Byte) : Statement (.push b) := by
  intro cfg p bytes h
  simp only [Sys2Proof.encode, Option.some.injEq, Prod.mk.injEq] at h
  simp [tablePort, h.1]

theorem fstep : Statement .fstep := by
  intro cfg p bytes h
  simp [Sys2Proof.encode] at h

theorem waitShort : Statement .waitShort := by
  intro cfg p bytes h
  simp only [Sys2Proof.encode, Option.some.injEq, Prod.mk.injEq] at h
  simp [tablePort, h.1]

theorem dropZeroLen : Statement .dropZeroLen := by
  intro cfg p bytes h
  simp only [Sys2Proof.encode, Option.some.injEq, Prod.mk.injEq] at h
  simp [tablePort, h.1]

theorem dropUnknownSrc : Statement .dropUnknownSrc := by
  intro cfg p bytes h
  simp only [Sys2Proof.encode, Option.map_eq_some_iff, Prod.mk.injEq] at h
  obtain ⟨_, _, hp, _⟩ := h
  simp [tablePort, hp]

theorem waitIncomplete : Statement .waitIncomplete := by
  intro cfg p bytes h
  simp only [Sys2Proof.encode, Option.map_eq_some_iff, Prod.mk.injEq] at h
  obtain ⟨_, _, hp, _⟩ := h
  simp [tablePort, hp]

theorem extract : Statement .extract := by
  intro cfg p bytes h
  simp only [Sys2Proof.encode, Option.map_eq_some_iff, Prod.mk.injEq] at h
  obtain ⟨_, _, hp, _⟩ := h
  simp [tablePort, hp]

theorem dropBadChecksum : Statement .dropBadChecksum := by
  intro cfg p bytes h
  simp only [Sys2Proof.encode, Option.map_eq_some_iff, Prod.mk.injEq] at h
  obtain ⟨_, _, hp, _⟩ := h
  simp [tablePort, hp]

theorem feed (s : List Byte) : Statement (.feed s) := by
  intro cfg p bytes h
  simp [Sys2Proof.encode] at h

theorem poll (f : List Byte) : Statement (.poll f) := by
  intro cfg p bytes h
  simp only [Sys2Proof.encode, Option.some.injEq, Prod.mk.injEq] at h
  simp [tablePort, h.1]

theorem power (f : List Byte) : Statement (.power f) := by
  intro cfg p bytes h
  simp only [Sys2Proof.encode, Option.some.injEq, Prod.mk.injEq] at h
  simp [tablePort, h.1]

theorem mode (f : List Byte) : Statement (.mode f) := by
  intro cfg p bytes h
  simp only [Sys2Proof.encode, Option.some.injEq, Prod.mk.injEq] at h
  simp [tablePort, h.1]

theorem now (f : List Byte) : Statement (.now f) := by
  intro cfg p bytes h
  simp only [Sys2Proof.encode, Option.some.injEq, Prod.mk.injEq] at h
  simp [tablePort, h.1]

theorem chUp (f : List Byte) : Statement (.chUp f) := by
  intro cfg p bytes h
  simp only [Sys2Proof.encode, Option.some.injEq, Prod.mk.injEq] at h
  simp [tablePort, h.1]

theorem chDown (f : List Byte) : Statement (.chDown f) := by
  intro cfg p bytes h
  simp only [Sys2Proof.encode, Option.some.injEq, Prod.mk.injEq] at h
  simp [tablePort, h.1]

theorem sat (f : List Byte) : Statement (.sat f) := by
  intro cfg p bytes h
  simp only [Sys2Proof.encode, Option.some.injEq, Prod.mk.injEq] at h
  simp [tablePort, h.1]

theorem unhandled (f : List Byte) : Statement (.unhandled f) := by
  intro cfg p bytes h
  simp only [Sys2Proof.encode, Option.some.injEq, Prod.mk.injEq] at h
  simp [tablePort, h.1]

theorem ignore (f : List Byte) : Statement (.ignore f) := by
  intro cfg p bytes h
  simp only [Sys2Proof.encode, Option.some.injEq, Prod.mk.injEq] at h
  simp [tablePort, h.1]

theorem encode (src dst : Byte) (cmd text : List Byte) : Statement (.encode src dst cmd text) := by
  intro cfg p bytes h
  simp [Sys2Proof.encode] at h

theorem stop : Statement .stop := by
  intro cfg p bytes h
  simp [Sys2Proof.encode] at h

theorem reset (c : Config) : Statement (.reset c) := by
  intro cfg p bytes h
  simp [Sys2Proof.encode] at h

end EncodesAtItsPort

end Sys2Proof.Laws
end

