-- ==== Sys2Proof/Laws/Step.lean ====
section
/-! SUPPORT. What the fetch and the step can do, said once. -/

namespace Sys2Proof.Machine

/-- Everything the fetch can present: the next byte of the line where PUSH is enabled, else the pending buffer. -/
theorem fetch_cases (s : State) :
    (∃ b rest, s.line = b :: rest ∧ pushEnabled s = true ∧ fetch s = (.line, [b])) ∨
      ((s.line = [] ∨ pushEnabled s = false) ∧ fetch s = (.head, s.buf)) := by
  cases hl : s.line with
  | nil => exact .inr ⟨.inl rfl, by simp [fetch, hl]⟩
  | cons b rest =>
    by_cases hp : pushEnabled s = true
    · exact .inl ⟨b, rest, rfl, hp, by simp [fetch, hl, hp]⟩
    · exact .inr ⟨.inr (by simpa using hp), by simp [fetch, hl, hp]⟩

/-- Everything the block's own step can be: nothing, on a halted block; PUSH of the next byte of the line; or the action
that the pending buffer selects. -/
theorem blockStep_cases (s : State) :
    (¬ s.Running ∧ blockStep s = .next s) ∨
      (s.Running ∧ ∃ b rest, s.line = b :: rest ∧ pushEnabled s = true ∧
        blockStep s = exec (.push b) { s with line := rest }) ∨
      (s.Running ∧ (s.line = [] ∨ pushEnabled s = false) ∧
        blockStep s = exec (actionInstr (classify s.config s.buf)) s) := by
  by_cases hr : s.Running
  · have hh := (halted_eq_false_iff s).2 hr
    rcases fetch_cases s with ⟨b, rest, hl, hp, hf⟩ | ⟨hl, hf⟩
    · exact .inr (.inl ⟨hr, b, rest, hl, hp, by simp [blockStep, hh, hf, hl, decode, consume]⟩)
    · exact .inr (.inr ⟨hr, hl, by simp [blockStep, hh, hf, decode, consume]⟩)
  · exact .inl ⟨hr, by simp [blockStep, (halted_eq_true_iff s).2 hr]⟩

theorem nothingEnabled_iff (s : State) :
    nothingEnabled s = true ↔ ¬ s.Running ∨ (s.Quiescent ∧ (s.line = [] ∨ pushEnabled s = false)) := by
  simp [nothingEnabled, halted_eq_true_iff]

/-- Everything ending a FEED can do: nothing, where none is in progress or it can go on; or the call is handed its
events. -/
theorem concludeFeed_cases (s : State) :
    ((s.feeding = none ∨ nothingEnabled s = false) ∧ concludeFeed s = s) ∨
      ∃ es, s.feeding = some es ∧ nothingEnabled s = true ∧ concludeFeed s = endFeed es s := by
  unfold concludeFeed
  cases hf : s.feeding with
  | none => exact .inl ⟨.inl rfl, rfl⟩
  | some es =>
    cases hn : nothingEnabled s with
    | false => exact .inl ⟨.inr rfl, rfl⟩
    | true => exact .inr ⟨es, rfl, rfl, rfl⟩

theorem concludeFeed_of_over {s : State} {es : List Event} (hf : s.feeding = some es) (hn : nothingEnabled s = true) :
    concludeFeed s = endFeed es s := by simp [concludeFeed, hf, hn]

/-- Ending a FEED writes the call and its answer, and nothing else. -/
theorem concludeFeed_frame (s : State) :
    concludeFeed s = { s with feeding := (concludeFeed s).feeding, answer := (concludeFeed s).answer } := by
  rcases concludeFeed_cases s with ⟨_, h⟩ | ⟨es, _, _, h⟩ <;> simp [h, endFeed, answerWith, setFeeding]

theorem collectFeed_eq_next {es : List Event} {s t : State} {o : Result} :
    collectFeed es s o = .next t ↔ ∃ u, o = .next u ∧ t = setFeeding (some (es ++ feedResults s u)) u := by
  cases o with
  | next u => simp [collectFeed, eq_comm]
  | fault r => exact nomatch r
  | refused r => simp [collectFeed]

theorem step_of_signal {s : State} {c : Control} {rest : List (Option Control)} (h : s.signals = some c :: rest) :
    step s = exec (controlInstr c) (concludeFeed (setSignals rest s)) := by
  unfold step scheduledStep; rw [h]

theorem step_of_pass {s : State} {rest : List (Option Control)} (h : s.signals = none :: rest) :
    step s = unsignalledStep s.afterSignal := by
  unfold step scheduledStep State.afterSignal; rw [h]; rfl

theorem step_of_no_signals {s : State} (h : s.signals = []) : step s = unsignalledStep s.afterSignal := by
  unfold step scheduledStep State.afterSignal
  rw [h]
  cases s; cases h; rfl

/-- Everything a step can be: a control step of the host, which finds a FEED that is over ended; the end of the FEED in progress, or a block step of it; the
start of a FEED, or a control step, that the host's program asks for; or the block's own step. -/
theorem step_cases (s : State) :
    (∃ c rest, s.signals = some c :: rest ∧ step s = exec (controlInstr c) (concludeFeed (setSignals rest s))) ∨
      (s.Unsignalled ∧
        ((∃ es, s.feeding = some es ∧ nothingEnabled s = true ∧ step s = .next (endFeed es s.afterSignal)) ∨
          (∃ es, s.feeding = some es ∧ nothingEnabled s = false ∧
            step s = collectFeed es s.afterSignal (blockStep s.afterSignal)) ∨
          (s.feeding = none ∧ ∃ bs rest, s.requests = .feed bs :: rest ∧
            step s = .next (beginFeed bs (setRequests rest s.afterSignal))) ∨
          (s.feeding = none ∧ ∃ c rest, s.requests = .control c :: rest ∧
            step s = exec (controlInstr c) (setRequests rest s.afterSignal)) ∨
          (s.feeding = none ∧ s.requests = [] ∧ step s = blockStep s.afterSignal))) := by
  have rest_cases (hstep : step s = unsignalledStep s.afterSignal) :
      (∃ es, s.feeding = some es ∧ nothingEnabled s = true ∧ step s = .next (endFeed es s.afterSignal)) ∨
        (∃ es, s.feeding = some es ∧ nothingEnabled s = false ∧
          step s = collectFeed es s.afterSignal (blockStep s.afterSignal)) ∨
        (s.feeding = none ∧ ∃ bs rest, s.requests = .feed bs :: rest ∧
          step s = .next (beginFeed bs (setRequests rest s.afterSignal))) ∨
        (s.feeding = none ∧ ∃ c rest, s.requests = .control c :: rest ∧
          step s = exec (controlInstr c) (setRequests rest s.afterSignal)) ∨
        (s.feeding = none ∧ s.requests = [] ∧ step s = blockStep s.afterSignal) := by
    have hn : nothingEnabled s.afterSignal = nothingEnabled s := rfl
    have hf : s.afterSignal.feeding = s.feeding := rfl
    have hq : s.afterSignal.requests = s.requests := rfl
    rw [hstep, unsignalledStep, hf, hq]
    cases s.feeding with
    | some es =>
      cases he : nothingEnabled s with
      | true => exact .inl ⟨es, rfl, rfl, by simp [feedStep, hn, he]⟩
      | false => exact .inr (.inl ⟨es, rfl, rfl, by simp [feedStep, hn, he]⟩)
    | none =>
      cases s.requests with
      | nil => exact .inr (.inr (.inr (.inr ⟨rfl, rfl, rfl⟩)))
      | cons r rest =>
        cases r with
        | feed bs => exact .inr (.inr (.inl ⟨rfl, bs, rest, rfl, rfl⟩))
        | control c => exact .inr (.inr (.inr (.inl ⟨rfl, c, rest, rfl, rfl⟩)))
  cases hs : s.signals with
  | nil => exact .inr ⟨fun c r h => by simp [hs] at h, rest_cases (step_of_no_signals hs)⟩
  | cons c rest =>
    cases c with
    | some c => exact .inl ⟨c, rest, rfl, step_of_signal hs⟩
    | none => exact .inr ⟨fun c r h => by simp [hs] at h, rest_cases (step_of_pass hs)⟩

end Sys2Proof.Machine
end

