-- ==== Sys2Proof/Tests/Slice0.lean ====
section
/-! SUPPORT. Tests: the smoke test of WellFormed, the decoding of words written out from spec/30_encoding.md, vectors
of spec/95_test_vectors.md (named in each docstring), and for each statement with hypotheses a concrete witness. -/

namespace Sys2Proof.Tests

open Sys2Proof.Machine

set_option maxRecDepth 20000

/-! ## Helpers -/

/-- Whether an outcome is a next state that `p` accepts. -/
def gives (o : Result) (p : State → Bool) : Bool :=
  match o with
  | .next t => p t
  | .fault _ => false
  | .refused _ => false

/-- The refusal of an outcome, if it is one. -/
def refusalOf (o : Result) : Option Refusal :=
  match o with
  | .next _ => none
  | .fault _ => none
  | .refused r => some r

/-- The operation that bytes decode to at a port, if any. -/
def decoded (cfg : Config) (p : Port) (bs : List Byte) : Option Instr :=
  match decode cfg p bs with
  | .ok i => some i
  | .error _ => none

/-- The reset state with a pending buffer. -/
def withBuf (bs : List Byte) : State := { State.reset with buf := bs }

/-- The reset state with a channel. -/
def withChannel (c : Int) : State := { State.reset with channel := c }

/-- The reset state under a configuration. -/
def withConfig (cfg : Config) : State := { State.reset with config := cfg }

/-- EX with `ACCEPT_LEN1 = 0`. -/
def exNoLen1 : Config := { Config.ex with acceptLen1 := false }

/-- EX with `ACCEPT_BROADCAST = 1`. -/
def exBroadcast : Config := { Config.ex with acceptBroadcast := true }

/-- EX with no recognized device code, and with every code recognized. -/
def exNoDevice : Config := { Config.ex with dev := 0 }
def exAllDevices : Config := { Config.ex with dev := BitVec.allOnes 256 }

/-- EX configurations that fail one check of R202 each. -/
def badWf1 : Config := { Config.ex with cmdPoll := Config.ex.cmdNow }
def badWf2 : Config := { Config.ex with cmdSat := List.replicate 254 0 }
def badWf3 : Config := { Config.ex with announce := List.replicate 254 0 }
def badWf4 : Config := { Config.ex with pfxNow := List.replicate 248 0 }
def badWf5 : Config := { Config.ex with initBand := 16 }
def badWf6 : Config := { Config.ex with bufCap := 256 }

/-- Inbound frames of the ER vectors. -/
def pollFrame : List Byte := [0x68, 0x03, 0x73, 0xC1, 0xD9]
def powerFrame : List Byte := [0x68, 0x03, 0x73, 0xC2, 0xDA]
def modeFrame : List Byte := [0x68, 0x03, 0x73, 0xC3, 0xDB]
def nowFrame : List Byte := [0x68, 0x03, 0x73, 0xC4, 0xDC]
def chUpFrame : List Byte := [0x68, 0x03, 0x73, 0xC5, 0xDD]
def chDownFrame : List Byte := [0x68, 0x03, 0x73, 0xC6, 0xDE]
def satFrame : List Byte := [0x68, 0x03, 0x73, 0xC7, 0xDF]
def otherFrame : List Byte := [0x68, 0x03, 0x73, 0xC9, 0xD1]
def broadcastFrame : List Byte := [0x68, 0x03, 0xFF, 0xC1, 0x55]
def len1Frame : List Byte := [0x68, 0x01, 0x69]

/-! ## WellFormed refuses an ill-formed term, for each of its checks -/

/-- R101: shorter than two bytes, and shorter than its length byte asks for. -/
theorem test_wellFormed_xchk_refuses :
    wellFormed Config.ex (.xchk [0x68]) = false ∧ wellFormed Config.ex (.xchk [0x68, 0x01]) = false ∧
      wellFormed Config.ex (.xchk [0x68, 0x01, 0x69]) = true := by decide

/-- R170: 254 payload bytes have no frame, 253 have. -/
theorem test_wellFormed_encode_refuses :
    wellFormed Config.ex (.encode 0x68 0x73 [0xC1] (List.replicate 253 0)) = false ∧
      wellFormed Config.ex (.encode 0x68 0x73 [0xC1] (List.replicate 252 0)) = true := by decide

/-- R77: another kind's frame, a frame with a wrong checksum, and bytes that are no frame. -/
theorem test_wellFormed_kind_refuses :
    wellFormed Config.ex (.poll nowFrame) = false ∧ wellFormed Config.ex (.poll [0x68, 0x03, 0x73, 0xC1, 0xD8]) = false ∧
      wellFormed Config.ex (.poll [0x68, 0x03, 0x73, 0xC1]) = false ∧ wellFormed Config.ex (.poll pollFrame) = true := by
  decide

/-- The other kinds refuse a frame that their row does not select (R77). -/
theorem test_wellFormed_other_kinds_refuse :
    wellFormed Config.ex (.power pollFrame) = false ∧ wellFormed Config.ex (.mode pollFrame) = false ∧
      wellFormed Config.ex (.now pollFrame) = false ∧ wellFormed Config.ex (.chUp pollFrame) = false ∧
      wellFormed Config.ex (.chDown pollFrame) = false ∧ wellFormed Config.ex (.sat pollFrame) = false ∧
      wellFormed Config.ex (.unhandled pollFrame) = false ∧ wellFormed Config.ex (.ignore pollFrame) = false := by
  decide

/-- R76: no unrecognized code, and no recognized one. -/
theorem test_wellFormed_action_refuses :
    wellFormed exAllDevices .dropUnknownSrc = false ∧ wellFormed exNoDevice .waitIncomplete = false ∧
      wellFormed exNoDevice .extract = false ∧ wellFormed exNoDevice .dropBadChecksum = false := by decide

/-- R202: one configuration for each named check. -/
theorem test_wellFormed_reset_refuses :
    [badWf1, badWf2, badWf3, badWf4, badWf5, badWf6].map failedCheck =
        [some .wf1, some .wf2, some .wf3, some .wf4, some .wf5, some .wf6] ∧
      wellFormed Config.ex (.reset badWf1) = false ∧ wellFormed Config.ex (.reset Config.ex) = true := by decide

/-! ## Decoding: a word of every row that has an encoding -/

/-- PUSH, "bbbbbbbb" (R111); the line delivers one byte at a time. -/
theorem test_decode_push :
    decoded Config.ex .line [0b10100101] = some (.push 0xA5) ∧ decoded Config.ex .line [] = none ∧
      decoded Config.ex .line [0x68, 0x03] = none := by decide

/-- The six rows of R76, in the table's order; row 2 both ways. -/
theorem test_decode_actions :
    decoded Config.ex .head [0x68] = some .waitShort ∧
      decoded Config.ex .head [0x73, 0b00000000] = some .dropZeroLen ∧
      decoded exNoLen1 .head [0x73, 0b00000001, 0x72] = some .dropZeroLen ∧
      decoded Config.ex .head [0x80, 0x03] = some .dropUnknownSrc ∧
      decoded Config.ex .head [0x68, 0x03, 0x73, 0xC1] = some .waitIncomplete ∧
      decoded Config.ex .head [0x68, 0x03, 0x73, 0xC1, 0xD9] = some .extract ∧
      decoded Config.ex .head [0x68, 0x03, 0x73, 0xC1, 0xD8] = some .dropBadChecksum := by decide

/-- The nine rows of R77: "ssssssss LLLLLLLL 01110011 <CMD_k> cccccccc", and the rest. -/
theorem test_decode_kinds :
    decoded Config.ex .frame [0x68, 0x03, 0b01110011, 0xC1, 0xD9] = some (.poll pollFrame) ∧
      decoded Config.ex .frame [0x68, 0x03, 0b01110011, 0xC2, 0xDA] = some (.power powerFrame) ∧
      decoded Config.ex .frame [0x68, 0x03, 0b01110011, 0xC3, 0xDB] = some (.mode modeFrame) ∧
      decoded Config.ex .frame [0x68, 0x03, 0b01110011, 0xC4, 0xDC] = some (.now nowFrame) ∧
      decoded Config.ex .frame [0x68, 0x03, 0b01110011, 0xC5, 0xDD] = some (.chUp chUpFrame) ∧
      decoded Config.ex .frame [0x68, 0x03, 0b01110011, 0xC6, 0xDE] = some (.chDown chDownFrame) ∧
      decoded Config.ex .frame [0x68, 0x03, 0b01110011, 0xC7, 0xDF] = some (.sat satFrame) ∧
      decoded Config.ex .frame [0x68, 0x03, 0b01110011, 0xC9, 0xD1] = some (.unhandled otherFrame) ∧
      decoded Config.ex .frame [0x68, 0b00000001, 0x69] = some (.ignore len1Frame) := by decide

/-- ER-8 and ER-8b: a broadcast is a command only under `ACCEPT_BROADCAST = 1`; ER-10: exact match of the payload. -/
theorem test_decode_address_and_exact_match :
    decoded Config.ex .frame broadcastFrame = some (.ignore broadcastFrame) ∧
      decoded exBroadcast .frame broadcastFrame = some (.poll broadcastFrame) ∧
      decoded Config.ex .frame [0x68, 0x04, 0x73, 0xC1, 0x00, 0xDE] =
        some (.unhandled [0x68, 0x04, 0x73, 0xC1, 0x00, 0xDE]) ∧
      decoded Config.ex .frame [0x68, 0x03, 0x73, 0xC1] = none := by decide

/-- The encoder's words of the PF rows, by hand from R76: the least recognized code is 0x68. -/
theorem test_encode_actions :
    encode Config.ex .waitIncomplete = some (.head, [0x68, 0x02]) ∧
      encode Config.ex .extract = some (.head, [0x68, 0x02, 0x00, 0x6A]) ∧
      encode Config.ex .dropBadChecksum = some (.head, [0x68, 0x02, 0x00, 0x6B]) ∧
      encode Config.ex .dropUnknownSrc = some (.head, [0x00, 0x02]) ∧ encode exAllDevices .dropUnknownSrc = none := by
  decide

/-- A table word: bits 7..0 are the first byte. -/
theorem test_decodeTableWord :
    decodeTableWord 8 0x68 = some (.push 0x68) ∧ decodeTableWord 16 0x0068 = some .dropZeroLen ∧
      decodeTableWord 40 0xD9C1730368 = some .extract := by decide

/-- `withFetchWord` places a word so that the next step runs it. -/
theorem test_withFetchWord :
    gives (step (State.reset.withFetchWord 8 0x68)) (fun t => t.buf == [0x68] && t.line == []) = true ∧
      gives (step (State.reset.withFetchWord 16 0x0068))
        (fun t => t.buf == [0x00] && t.trace == [.dropped 0x68 .zeroLen]) = true := by decide

/-! ## Vectors -/

/-- CV-3 and CV-11. -/
theorem test_xsum_vectors :
    gives (exec (.xsum [0x68, 0x03, 0x73, 0xC1]) State.reset) (fun t => t.answer == some (.byte 0xD9)) = true ∧
      xsum [0x68, 0x03, 0x68, 0x03] = 0 := by decide

/-- CV-10: the payload 0x00 to 0xFC. -/
theorem test_xsum_longest_frame :
    xsum ([0x68, 0xFF, 0x73] ++ (List.range 253).map (BitVec.ofNat 8)) = 0x18 := by decide

/-- CV-4, CV-6, CV-7, CV-8. -/
theorem test_xchk_vectors :
    gives (exec (.xchk pollFrame) State.reset) (fun t => t.answer == some (.bool true)) = true ∧
      xchk [0x68, 0x03, 0x73, 0xC0, 0xD9] = false ∧ xchk [0x68, 0x02, 0x73, 0x19] = true ∧ xchk len1Frame = true := by
  decide

/-- PF-6: a lone byte is pushed and never judged. -/
theorem test_push_appends : gives (exec (.push 0x00) State.reset) (fun t => t.buf == [0x00] && t.trace == []) = true := by
  decide

/-- R111: PUSH is refused where PF is not quiescent. -/
theorem test_push_refused : refusalOf (exec (.push 0x03) (withBuf [0x00, 0x12])) = some .notQuiescent := by decide

/-- PF-7, its first iteration. -/
theorem test_fstep_drops :
    gives (exec .fstep (withBuf [0x68, 0x03, 0x73, 0xC1, 0xD8]))
      (fun t => t.buf == [0x03, 0x73, 0xC1, 0xD8] && t.trace == [.dropped 0x68 .badChecksum]) = true := by decide

/-- R112: no FSTEP at quiescence. -/
theorem test_fstep_refused : refusalOf (exec .fstep (withBuf [0x68])) = some .quiescent := by decide

/-- PF-2. -/
theorem test_waitShort : gives (exec .waitShort (withBuf [0x68])) (fun t => t == withBuf [0x68]) = true := by decide

/-- PF-12: L = 0x68 announces 106 bytes. -/
theorem test_waitIncomplete :
    gives (exec .waitIncomplete (withBuf [0x73, 0x68, 0x03, 0x73, 0xC1, 0xD9]))
      (fun t => t == withBuf [0x73, 0x68, 0x03, 0x73, 0xC1, 0xD9]) = true := by decide

/-- PF-4 and PF-11: the cause tells a zero length from a rejected length 1. -/
theorem test_dropZeroLen :
    gives (exec .dropZeroLen (withBuf [0x68, 0x00, 0x68])) (fun t => t.trace == [.dropped 0x68 .zeroLen]) = true ∧
      gives (exec .dropZeroLen { withConfig exNoLen1 with buf := len1Frame })
        (fun t => t.trace == [.dropped 0x68 .lenOne]) = true := by decide

/-- PF-8: 0xFF is no source. -/
theorem test_dropUnknownSrc :
    gives (exec .dropUnknownSrc (withBuf [0xFF, 0x03, 0x73, 0xC1, 0x25]))
      (fun t => t.buf == [0x03, 0x73, 0xC1, 0x25] && t.trace == [.dropped 0xFF .unknownSrc]) = true := by decide

/-- PF-10, its first iteration. -/
theorem test_dropBadChecksum :
    gives (exec .dropBadChecksum (withBuf [0x68, 0x01, 0x00]))
      (fun t => t.buf == [0x01, 0x00] && t.trace == [.dropped 0x68 .badChecksum]) = true := by decide

/-- PF-19: the frame leaves whole, the reply follows it, the later byte stays. -/
theorem test_extract :
    gives (exec .extract (withBuf (pollFrame ++ [0x73])))
      (fun t => t.buf == [0x73] &&
        t.trace == [.packetOut pollFrame, .replyOut [0x73, 0x03, 0x68, 0xD0, 0xC8]]) = true := by decide

/-- PF-13: capture. -/
theorem test_feed_capture :
    gives (exec (.feed [0x68, 0x02, 0x02, 0x68, 0x03, 0x73, 0xC1, 0xD9]) State.reset)
      (fun t => t.buf == [0x73, 0xC1, 0xD9] &&
        t.trace == [.packetOut [0x68, 0x02, 0x02, 0x68], .dropped 0x03 .unknownSrc]) = true := by decide

/-- After ER-18 the host holds what it is fed. -/
theorem test_feed_held_after_fault :
    gives (exec (.feed [0x68, 0x03])
        { withChannel 256 with fault := some ⟨.channelOutOfRange, 256⟩ })
      (fun t => t.buf == [] && t.line == [0x68, 0x03] && t.answer == some (.fed [])) = true := by decide

/-- ER-1 and ER-20: POLL carries no state, so it answers with the channel at -1 too. -/
theorem test_poll :
    gives (exec (.poll pollFrame) State.reset)
        (fun t => t.trace == [.replyOut [0x73, 0x03, 0x68, 0xD0, 0xC8]]) = true ∧
      gives (exec (.poll pollFrame) (withChannel (-1)))
        (fun t => t.trace == [.replyOut [0x73, 0x03, 0x68, 0xD0, 0xC8]] && t.fault == none) = true := by decide

/-- ER-16: a fixed reply destination. -/
theorem test_poll_fixed_destination :
    gives (exec (.poll [0x80, 0x03, 0x73, 0xC1, 0x31]) (withConfig { Config.ex with replyDst := .fixed 0x68 }))
      (fun t => t.trace == [.replyOut [0x73, 0x03, 0x68, 0xD0, 0xC8]]) = true := by decide

/-- ER-2. -/
theorem test_power :
    gives (exec (.power powerFrame) State.reset)
      (fun t => t.trace == [.replyOut [0x73, 0x06, 0x68, 0xE0, 0x01, 0x01, 0x11, 0xEC]]) = true := by decide

/-- ER-21. -/
theorem test_power_faults :
    gives (exec (.power powerFrame) (withChannel (-1)))
      (fun t => t.trace == [.faultRaised ⟨.channelOutOfRange, -1⟩] && t.fault == some ⟨.channelOutOfRange, -1⟩) = true := by
  decide

/-- ER-3. -/
theorem test_mode :
    gives (exec (.mode modeFrame) State.reset)
      (fun t => t.trace == [.replyOut [0x73, 0x06, 0x68, 0xE0, 0x02, 0x01, 0x11, 0xEF]]) = true := by decide

/-- ER-4. -/
theorem test_now :
    gives (exec (.now nowFrame) State.reset)
      (fun t => t.trace ==
        [.replyOut [0x73, 0x0A, 0x68, 0xE0, 0x03, 0x01, 0x11, 0x20, 0x20, 0x20, 0x20, 0xE2]]) = true := by decide

/-- ER-17: channel 0xFF, band and preset packed as 0xF9. -/
theorem test_chUp :
    gives (exec (.chUp chUpFrame) { withChannel 254 with band := 15, preset := 9 })
      (fun t => t.channel == 255 &&
        t.trace == [.replyOut [0x73, 0x06, 0x68, 0xE0, 0x04, 0xFF, 0xF9, 0xFF]]) = true := by decide

/-- ER-18: the increment stands and the fault is taken. -/
theorem test_chUp_faults :
    gives (exec (.chUp chUpFrame) (withChannel 255))
      (fun t => t.channel == 256 && t.trace == [.faultRaised ⟨.channelOutOfRange, 256⟩]) = true := by decide

/-- ER-6. -/
theorem test_chDown :
    gives (exec (.chDown chDownFrame) State.reset)
      (fun t => t.channel == 0 &&
        t.trace == [.replyOut [0x73, 0x06, 0x68, 0xE0, 0x05, 0x00, 0x11, 0xE9]]) = true := by decide

/-- ER-19. -/
theorem test_chDown_faults :
    gives (exec (.chDown chDownFrame) (withChannel 0))
      (fun t => t.channel == -1 && t.fault == some ⟨.channelOutOfRange, -1⟩) = true := by decide

/-- ER-7. -/
theorem test_sat :
    gives (exec (.sat satFrame) State.reset)
      (fun t => t.trace == [.replyOut [0x73, 0x09, 0x68, 0xE0, 0x06, 0x01, 0x11, 0x53, 0x41, 0x54, 0xA2]]) = true := by
  decide

/-- ER-9 and ER-11. -/
theorem test_unhandled :
    gives (exec (.unhandled otherFrame) State.reset) (fun t => t.trace == [.unhandled otherFrame]) = true ∧
      gives (exec (.unhandled [0x68, 0x02, 0x73, 0x19]) State.reset)
        (fun t => t.trace == [.unhandled [0x68, 0x02, 0x73, 0x19]]) = true := by decide

/-- ER-12 and ER-15. -/
theorem test_ignore :
    gives (exec (.ignore [0x68, 0x03, 0x80, 0xC1, 0x2A]) State.reset) (fun t => t == State.reset) = true ∧
      gives (exec (.ignore len1Frame) State.reset) (fun t => t == State.reset) = true := by decide

/-- PE-2. -/
theorem test_encode :
    gives (exec (.encode 0x73 0x68 [0xE0, 0x06] [0x53, 0x41, 0x54]) State.reset)
      (fun t => t.answer == some (.frame [0x73, 0x07, 0x68, 0xE0, 0x06, 0x53, 0x41, 0x54, 0xBC])) = true := by decide

/-- PE-5. -/
theorem test_encode_faults :
    gives (exec (.encode 0x68 0x73 [] (List.replicate 254 0)) State.reset)
      (fun t => t.fault == some ⟨.encodeTooLong, 254⟩ && t.answer == none) = true := by decide

/-- HC-1. -/
theorem test_stop :
    gives (exec .stop (withBuf [0x68, 0x03])) (fun t => t.stopped && t.buf == [0x68, 0x03] && t.trace == []) = true ∧
      refusalOf (exec (.push 0x73) { withBuf [0x68, 0x03] with stopped := true }) = some .stopped := by decide

/-- HC-3. -/
theorem test_reset_leaves_the_fault :
    gives (exec (.reset Config.ex) { withChannel 256 with fault := some ⟨.channelOutOfRange, 256⟩ })
      (fun t => t == State.reset) = true := by decide

/-- HC-4 and HC-5. -/
theorem test_reset_refused :
    refusalOf (exec (.reset badWf1) State.reset) = some (.illFormedConfig .wf1) ∧
      refusalOf (exec (.reset badWf5) State.reset) = some (.illFormedConfig .wf5) := by decide

/-- R196, R203: a halted block idles and keeps the line; a running one takes the line's next byte. -/
theorem test_step_takes_the_line :
    gives (step { State.reset with line := [0x68, 0x03] }) (fun t => t.buf == [0x68] && t.line == [0x03]) = true ∧
      gives (step { State.reset with line := [0x68, 0x03], stopped := true })
        (fun t => t.buf == [] && t.line == [0x68, 0x03]) = true := by decide

/-- R119: STOP lands inside a FEED in progress, which then ends early; what it has not pushed stays on the line. -/
theorem test_step_stop_inside_feed :
    gives (step { withBuf [0x68] with feeding := some [], line := [0x03], signals := [some .stop] })
        (fun t => t.stopped && t.buf == [0x68] && t.feeding == some []) = true ∧
      gives (step { withBuf [0x68] with feeding := some [], line := [0x03], stopped := true })
        (fun t => t.buf == [0x68] && t.line == [0x03] && t.feeding == none && t.answer == some (.fed [])) = true := by
  decide

/-- R119: STOP inside a FEED with RESET at the very next step, and a fault inside it with RESET at the very next step: the
FEED has ended, and the RESET does not take it up again. -/
theorem test_step_reset_after_feed_was_stopped :
    gives (steps 2 { withBuf [0x68] with
          feeding := some [], line := [0x03], signals := [some .stop, some (.reset Config.ex)] })
        (fun t => t.Running && t.feeding == none && t.answer == some (.fed []) && t.buf == [] && t.line == [0x03]) =
        true ∧
      gives (step { withChannel 256 with
          fault := some ⟨.channelOutOfRange, 256⟩, feeding := some [.packetOut nowFrame], line := [0x03],
          signals := [some (.reset Config.ex)] })
        (fun t => t.Running && t.feeding == none && t.answer == some (.fed [.packetOut nowFrame])) = true := by decide

/-- R189: the host's STOP is taken where FSTEP is enabled too; without a signal FSTEP is. -/
theorem test_step_signal_before_fstep :
    gives (step { withBuf [0x00, 0x12] with signals := [some .stop] }) (fun t => t.buf == [0x00, 0x12] && t.stopped) = true ∧
      gives (step { withBuf [0x00, 0x12] with signals := [none, some .stop] })
        (fun t => t.buf == [0x12] && t.signals == [some .stop]) = true := by decide

/-! ## Witnesses: for each statement with hypotheses, states and operands that meet them, per clause -/

theorem witness_XsumFoldsXorAndWritesNoState :
    ([0x68, 0x03] : List Byte).Perm [0x03, 0x68] ∧ State.reset.Running := by decide

/-- L = 0, the least frame's L = 1, and L = 255. -/
theorem witness_XchkComparesXsumAndWritesNoState :
    State.reset.Running ∧ (2 ≤ [0x68#8, 0x00].length ∧ (0x00#8).toNat + 2 ≤ [0x68#8, 0x00].length) ∧
      (2 ≤ len1Frame.length ∧ (len1Frame.getD 1 0).toNat = 1 ∧ 1 + 2 ≤ len1Frame.length) ∧
      (([0x68, 0xFF] ++ List.replicate 255 0 : List Byte).getD 1 0).toNat + 2 ≤
        ([0x68, 0xFF] ++ List.replicate 255 0 : List Byte).length := by decide

/-- 0 and 253 payload bytes, and XCHK's least operand. -/
theorem witness_FunctionsHandBackTheirValue :
    ([] : List Byte).length + ([] : List Byte).length ≤ 253 ∧
      [0xC1#8].length + (List.replicate 252 0#8).length ≤ 253 ∧
      2 ≤ [0x68#8, 0x00].length ∧ lenByte [0x68, 0x00] + 2 ≤ [0x68#8, 0x00].length := by decide

theorem witness_XsumSplitsAndClosesToZero : 2 ≤ pollFrame.length ∧ lenByte pollFrame + 2 ≤ pollFrame.length := by decide

/-- The first and the last byte, the lowest and the highest bit. -/
theorem witness_SingleBitFlipIsDetected :
    isFrame pollFrame = true ∧ xchk pollFrame = true ∧ 0 < pollFrame.length ∧ (0 : Nat) ≠ 1 ∧ (0 : Nat) < 8 ∧
      4 < pollFrame.length ∧ (4 : Nat) ≠ 1 ∧ (7 : Nat) < 8 := by decide

theorem witness_PairedFlipsAndSwapsAreNotDetected :
    isFrame pollFrame = true ∧ xchk pollFrame = true ∧
      (0 < pollFrame.length ∧ 4 < pollFrame.length ∧ (0 : Nat) ≠ 4 ∧ (0 : Nat) ≠ 1 ∧ (4 : Nat) ≠ 1 ∧ (7 : Nat) < 8) ∧
      (0 ≤ lenByte pollFrame ∧ 3 ≤ lenByte pollFrame ∧ (3 : Nat) ≠ 1) := by decide

theorem witness_ActionIsStableUnderLaterBytes :
    phase Config.ex [0x68, 0x00] ≠ .awaitingBytes ∧ phase Config.ex pollFrame ≠ .awaitingBytes := by decide

/-- Enabled: an empty buffer, and 256 waiting bytes. Not enabled: stopped, not quiescent, full. -/
theorem witness_PushAppendsItsByteWhereEnabled :
    (State.reset.Running ∧ State.reset.Quiescent ∧ State.reset.buf.length < State.reset.config.bufCap) ∧
      (let s := withBuf ([0x68, 0xFF] ++ List.replicate 254 0);
        s.Running ∧ s.Quiescent ∧ s.buf.length < s.config.bufCap) ∧
      (let s := { State.reset with stopped := true };
        ¬ (s.Running ∧ s.Quiescent ∧ s.buf.length < s.config.bufCap)) ∧
      (let s := withBuf [0x68, 0x00];
        ¬ (s.Running ∧ s.Quiescent ∧ s.buf.length < s.config.bufCap)) ∧
      (let s : State := { withConfig { Config.ex with bufCap := 1 } with buf := [0x68] };
        ¬ (s.Running ∧ s.Quiescent ∧ s.buf.length < s.config.bufCap)) := by decide

theorem witness_FstepPerformsTheSelectedAction :
    ((withBuf [0x68, 0x00]).Running ∧ ¬ (withBuf [0x68, 0x00]).Quiescent) ∧
      ((withBuf pollFrame).Running ∧ ¬ (withBuf pollFrame).Quiescent) ∧
      (withBuf [0x68]).Quiescent ∧ ¬ ({ State.reset with stopped := true } : State).Running := by decide

/-- No byte, one byte; a length byte of 1 and one of 255. -/
theorem witness_WaitActionsChangeNothing :
    (withBuf []).buf.length < 2 ∧ (withBuf [0x68]).buf.length < 2 ∧
      ((withBuf [0x68, 0x01]).buf = [0x68, 0x01] ∧ (0x01 : Byte) ≠ 0 ∧ (withBuf []).config.acceptLen1 = true ∧
        (withBuf []).config.dev.getLsbD (0x68 : Byte).toNat = true ∧ ([] : List Byte).length < (0x01 : Byte).toNat) ∧
      ((withBuf [0x68, 0xFF, 0x00]).buf = [0x68, 0xFF, 0x00] ∧ (0xFF : Byte) ≠ 0 ∧ (0xFF : Byte) ≠ 1 ∧
        [0x00#8].length < (0xFF : Byte).toNat) := by decide

theorem witness_DropZeroLenDropsTheFirstByte :
    ((withBuf [0x68, 0x00]).Running ∧ (withBuf [0x68, 0x00]).buf = [0x68, 0x00]) ∧
      (let s := { withConfig exNoLen1 with buf := len1Frame };
        s.Running ∧ s.buf = [0x68, 0x01, 0x69] ∧ s.config.acceptLen1 = false) := by decide

theorem witness_DropUnknownSrcDropsTheFirstByte :
    let s := withBuf [0xFF, 0x01];
    s.Running ∧ s.buf = [0xFF, 0x01] ∧ (0x01 : Byte) ≠ 0 ∧ s.config.acceptLen1 = true ∧
      s.config.dev.getLsbD (0xFF : Byte).toNat = false := by decide

theorem witness_DropBadChecksumDropsTheFirstByte :
    let s := withBuf [0x68, 0x01, 0x00];
    s.Running ∧ s.buf = [0x68, 0x01, 0x00] ∧ (0x01 : Byte) ≠ 0 ∧ s.config.acceptLen1 = true ∧
      s.config.dev.getLsbD (0x68 : Byte).toNat = true ∧ (0x01 : Byte).toNat ≤ [0x00#8].length ∧
      xchk s.buf = false := by decide

/-- A frame of length 1, and one with a command and a byte after it. -/
theorem witness_ExtractRemovesTheFrameAndHandlesIt :
    (let s := withBuf len1Frame;
      s.Running ∧ s.buf = len1Frame ++ [] ∧ isFrame len1Frame = true ∧ xchk len1Frame = true ∧
        s.config.acceptLen1 = true ∧ s.config.dev.getLsbD (source len1Frame).toNat = true) ∧
      (let s := withBuf (pollFrame ++ [0x73]);
      s.Running ∧ s.buf = pollFrame ++ [0x73] ∧ isFrame pollFrame = true ∧ xchk pollFrame = true ∧
        lenByte pollFrame ≠ 1 ∧ s.config.dev.getLsbD (source pollFrame).toNat = true) := by decide

theorem witness_UnselectedRowsAreRefused :
    classify State.reset.config State.reset.buf ≠ .extract ∧ isFrame [0x68, 0x03] = false ∧
      (isFrame pollFrame = true ∧ kindOf State.reset.config pollFrame ≠ .power) := by decide

/-- R209, clause by clause: pending bytes in `buf` and a set stop flag do not matter; a PF that is not quiescent, a fault,
a byte on the line and a byte of a FEED to come do. -/
theorem test_normal_end :
    (withBuf [0x68, 0x03]).NormalEnd ∧ ({ withBuf [0x68, 0x03] with stopped := true } : State).NormalEnd ∧
      ({ State.reset with requests := [.feed [], .control .stop] } : State).NormalEnd ∧
      ¬ (withBuf pollFrame).NormalEnd ∧
      ¬ ({ withChannel 256 with fault := some ⟨.channelOutOfRange, 256⟩ } : State).NormalEnd ∧
      ¬ ({ State.reset with line := [0x68] } : State).NormalEnd ∧
      ¬ ({ State.reset with requests := [.control .stop, .feed [0x68]] } : State).NormalEnd := by decide

/-- A block with FSTEPs to take; and a host with a held byte and two FEEDs to come. -/
theorem witness_FstepsReachQuiescence :
    (withBuf [0x68, 0x00, 0x12, 0x99]).Running ∧
      (let s : State := { State.reset with line := [0x12], requests := [.feed pollFrame, .feed []] };
        s.Running ∧ 257 ≤ s.config.bufCap ∧ s.signals = [] ∧ ∀ r ∈ s.requests, ∃ bs, r = .feed bs) :=
  ⟨by decide, by decide, by decide, rfl, by simp⟩

/-- A block at quiescence, and one that a PUSH has just made not quiescent; and, after the first FSTEPs, room, a fault,
and a buffer without room. -/
theorem witness_FeedOfOneByteIsPushThenFsteps :
    ((withBuf [0x68, 0x03, 0x73, 0xC1]).Running ∧ (withBuf [0x68, 0x03, 0x73, 0xC1]).line = [] ∧
      (withBuf [0x68, 0x03, 0x73, 0xC1]).Quiescent) ∧
      ((withBuf [0x00, 0x12]).Running ∧ (withBuf [0x00, 0x12]).line = [] ∧ ¬ (withBuf [0x00, 0x12]).Quiescent) ∧
      (∃ q, fsteps 1 { withChannel 255 with buf := chUpFrame } = .next q ∧ q.fault ≠ none) ∧
      (let s : State := { withConfig { Config.ex with bufCap := 1 } with buf := [0x68] };
        s.Running ∧ s.line = [] ∧ s.Quiescent ∧ s.config.bufCap ≤ s.buf.length) :=
  ⟨by decide, by decide, ⟨_, rfl, by decide⟩, by decide⟩

/-- Bytes are held where a fault ends FEED early: the second CH_UP of program P5. -/
theorem witness_FeedCompletesAndLosesNoByte :
    ∃ t, chUpFrame ++ [0x68] ≠ [] ∧ exec (.feed (chUpFrame ++ [0x68])) (withChannel 255) = .next t ∧ t.line = [0x68] ∧
      ¬ t.Running :=
  ⟨_, by decide, rfl, by decide, by decide⟩

/-- With no byte held, and with a byte held. -/
theorem witness_FeedEqualsTheBulkForm :
    (∃ t, State.reset.Running ∧ State.reset.Quiescent ∧ 257 ≤ State.reset.config.bufCap ∧ State.reset.line = [] ∧
      exec (.feed (0x12 :: pollFrame)) State.reset = .next t ∧ t.fault = none) ∧
      ∃ t, pollFrame ≠ [] ∧ exec (.feed pollFrame) { State.reset with line := [0x12] } = .next t ∧ t.fault = none :=
  ⟨⟨_, by decide, by decide, by decide, rfl, rfl, by decide⟩, _, by decide, rfl, by decide⟩

/-- One state for each clause: a FEED asked for; in progress on a halted block, at its end, with RESET signalled after its
fault, with STOP and then RESET signalled, not quiescent, and at quiescence with a byte to push. -/
theorem witness_FeedRunsAsSingleSteps :
    (let s : State := { State.reset with requests := [.feed pollFrame, .control .stop] };
      s.signals = [] ∧ s.feeding = none ∧ s.requests = .feed pollFrame :: [.control .stop]) ∧
      (let s : State := { State.reset with feeding := some [], line := [0x68], stopped := true };
        s.signals = [] ∧ s.feeding = some [] ∧ ¬ s.Running) ∧
      (let s : State := { withBuf [0x68] with feeding := some [] }; s.Running ∧ s.Quiescent ∧ s.line = []) ∧
      (let s : State := { withConfig { Config.ex with bufCap := 1 } with buf := [0x68], feeding := some [], line := [0x03] };
        s.Quiescent ∧ s.config.bufCap ≤ s.buf.length) ∧
      (let s : State := { withChannel 256 with
          fault := some ⟨.channelOutOfRange, 256⟩, feeding := some [], signals := [some (.reset Config.ex)] };
        s.feeding = some [] ∧ s.FeedOver ∧ configOk Config.ex = true ∧ s.signals = some (.reset Config.ex) :: []) ∧
      (let s : State := { withBuf [0x68] with
          feeding := some [], line := [0x03], signals := [some .stop, some (.reset Config.ex)] };
        s.feeding = some [] ∧ s.Running ∧ s.signals = some .stop :: some (.reset Config.ex) :: []) ∧
      (let s : State := { withBuf [0x00, 0x12] with feeding := some [] }; s.Running ∧ ¬ s.Quiescent) ∧
      (let s : State := { withBuf [0x68] with feeding := some [], line := [0x03] };
        s.Running ∧ s.Quiescent ∧ s.buf.length < s.config.bufCap ∧ s.line = 0x03 :: []) := by decide

theorem witness_StepConservesTheByteStream :
    ∃ t, (withBuf (pollFrame ++ [0x73])).Unsignalled ∧ (withBuf (pollFrame ++ [0x73])).requests = [] ∧
      step (withBuf (pollFrame ++ [0x73])) = .next t :=
  ⟨_, nofun, rfl, rfl⟩

/-- The empty payload, and 253 bytes. -/
theorem witness_FeedOfAnEncodedFrameExtractsIt :
    State.reset.Running ∧ State.reset.buf = [] ∧ State.reset.line = [] ∧ 257 ≤ State.reset.config.bufCap ∧
      State.reset.config.dev.getLsbD (0x68 : Byte).toNat = true ∧
      ([] : List Byte).length + ([] : List Byte).length ≤ 253 ∧
      (List.replicate 253 0#8).length + ([] : List Byte).length ≤ 253 := by decide

theorem witness_UnrecognizedNoiseIsDroppedBeforeAFrame :
    State.reset.Running ∧ State.reset.buf = [] ∧ State.reset.line = [] ∧ 257 ≤ State.reset.config.bufCap ∧
      (∀ g ∈ [0x00#8, 0x12, 0x99], State.reset.config.dev.getLsbD g.toNat = false) ∧
      isFrame pollFrame = true ∧ xchk pollFrame = true ∧ lenByte pollFrame ≠ 1 ∧
      State.reset.config.dev.getLsbD (source pollFrame).toNat = true := by decide

/-- The hypotheses of the seven command statements, apart from the channel. -/
abbrev Commanded (s : State) (f cmd : List Byte) : Prop :=
  s.Running ∧ configOk s.config = true ∧ s.NibbleState ∧ AddressedFrame s.config f ∧ payload f = cmd

/-- The command, and both policies for the reply destination. -/
theorem witness_PollSendsTheAnnounce :
    Commanded State.reset pollFrame State.reset.config.cmdPoll ∧ Config.ex.replyDst = .sender ∧
      ({ Config.ex with replyDst := .fixed 0x68 } : Config).replyDst = .fixed 0x68 := by decide

/-- A broadcast under `ACCEPT_BROADCAST = 1`. -/
theorem witness_PollSendsTheAnnounce_broadcast :
    Commanded (withConfig exBroadcast) broadcastFrame (withConfig exBroadcast).config.cmdPoll := by decide

/-- The channel at 0, 255, -1 and 256. -/
theorem witness_PowerSendsTheStatus :
    Commanded (withChannel 0) powerFrame (withChannel 0).config.cmdPower ∧
      Commanded (withChannel 255) powerFrame (withChannel 255).config.cmdPower ∧
      Commanded (withChannel (-1)) powerFrame (withChannel (-1)).config.cmdPower ∧
      Commanded (withChannel 256) powerFrame (withChannel 256).config.cmdPower ∧
      (0 ≤ (withChannel 0).channel ∧ (withChannel 0).channel ≤ 255) ∧
      (0 ≤ (withChannel 255).channel ∧ (withChannel 255).channel ≤ 255) ∧
      (withChannel (-1)).channel < 0 ∧ 255 < (withChannel 256).channel := by decide

theorem witness_ModeSendsTheStatus :
    Commanded (withChannel 255) modeFrame (withChannel 255).config.cmdMode ∧
      Commanded (withChannel (-1)) modeFrame (withChannel (-1)).config.cmdMode ∧
      (0 ≤ (withChannel 255).channel ∧ (withChannel 255).channel ≤ 255) ∧ (withChannel (-1)).channel < 0 := by decide

theorem witness_NowSendsTheStatusAndText :
    Commanded (withChannel 0) nowFrame (withChannel 0).config.cmdNow ∧
      Commanded (withChannel 256) nowFrame (withChannel 256).config.cmdNow ∧
      (0 ≤ (withChannel 0).channel ∧ (withChannel 0).channel ≤ 255) ∧ 255 < (withChannel 256).channel := by decide

theorem witness_SatSendsTheStatusAndText :
    Commanded (withChannel 0) satFrame (withChannel 0).config.cmdSat ∧
      Commanded (withChannel 256) satFrame (withChannel 256).config.cmdSat ∧
      (0 ≤ (withChannel 0).channel ∧ (withChannel 0).channel ≤ 255) ∧ 255 < (withChannel 256).channel := by decide

/-- From -1 and 254 the new channel is 0 and 255; from -2 and 255 it is -1 and 256. -/
theorem witness_ChUpIncrementsThenAnswers :
    Commanded (withChannel (-1)) chUpFrame Config.ex.cmdChUp ∧ Commanded (withChannel 254) chUpFrame Config.ex.cmdChUp ∧
      Commanded (withChannel (-2)) chUpFrame Config.ex.cmdChUp ∧ Commanded (withChannel 255) chUpFrame Config.ex.cmdChUp ∧
      (0 ≤ (withChannel (-1)).channel + 1 ∧ (withChannel 254).channel + 1 ≤ 255) ∧
      (withChannel (-2)).channel + 1 < 0 ∧ 255 < (withChannel 255).channel + 1 := by decide

/-- From 1 and 256 the new channel is 0 and 255; from 0 and 257 it is -1 and 256. -/
theorem witness_ChDownDecrementsThenAnswers :
    Commanded (withChannel 1) chDownFrame Config.ex.cmdChDown ∧
      Commanded (withChannel 256) chDownFrame Config.ex.cmdChDown ∧
      Commanded (withChannel 0) chDownFrame Config.ex.cmdChDown ∧
      Commanded (withChannel 257) chDownFrame Config.ex.cmdChDown ∧
      (0 ≤ (withChannel 1).channel - 1 ∧ (withChannel 256).channel - 1 ≤ 255) ∧
      (withChannel 0).channel - 1 < 0 ∧ 255 < (withChannel 257).channel - 1 := by decide

theorem witness_UnhandledIsReportedWithoutReply :
    State.reset.Running ∧ AddressedFrame State.reset.config otherFrame ∧
      payload otherFrame ∉ commandFields State.reset.config := by decide

/-- A length-1 frame; a broadcast where the option is off; another device's frame where it is on. -/
theorem witness_IgnoreChangesNothing :
    State.reset.Running ∧ (isFrame len1Frame = true ∧ lenByte len1Frame = 1) ∧
      (isFrame broadcastFrame = true ∧ destination broadcastFrame ≠ 0x73 ∧
        State.reset.config.acceptBroadcast = false) ∧
      (let f : List Byte := [0x68, 0x03, 0x80, 0xC1, 0x2A];
        isFrame f = true ∧ destination f ≠ 0x73 ∧ (withConfig exBroadcast).config.acceptBroadcast = true ∧
          destination f ≠ 0xFF) := by decide

/-- No addressed frame: one of length 1, and a broadcast where the option is off. -/
theorem witness_FrameDecodeFollowsTheCommandTable_ignored :
    configOk Config.ex = true ∧ (isFrame len1Frame = true ∧ ¬ AddressedFrame Config.ex len1Frame) ∧
      (isFrame broadcastFrame = true ∧ ¬ AddressedFrame Config.ex broadcastFrame) := by decide

/-- The frames of the eight other rows, in the table's order. -/
theorem witness_FrameDecodeFollowsTheCommandTable :
    configOk Config.ex = true ∧
      (∀ f ∈ [pollFrame, powerFrame, modeFrame, nowFrame, chUpFrame, chDownFrame, satFrame, otherFrame],
        AddressedFrame Config.ex f) ∧
      payload pollFrame = Config.ex.cmdPoll ∧ payload powerFrame = Config.ex.cmdPower ∧
      payload modeFrame = Config.ex.cmdMode ∧ payload nowFrame = Config.ex.cmdNow ∧
      payload chUpFrame = Config.ex.cmdChUp ∧ payload chDownFrame = Config.ex.cmdChDown ∧
      payload satFrame = Config.ex.cmdSat ∧ payload otherFrame ∉ commandFields Config.ex := by decide

theorem witness_ExtractHasOneResponderOutcome :
    ∃ t, configOk (withBuf chUpFrame).config = true ∧ (withBuf chUpFrame).NibbleState ∧
      exec .extract (withBuf chUpFrame) = .next t :=
  ⟨_, by decide, by decide, rfl⟩

theorem witness_ChannelCountsUpAndDown :
    ∃ t, handleFrames [chUpFrame, nowFrame, chDownFrame, chDownFrame] State.reset = .next t := ⟨_, rfl⟩

theorem witness_EchoOfAReplyIsIgnored :
    Config.ex.replyDst = .sender ∧ (List.replicate 253 0#8).length ≤ 253 ∧ source pollFrame ≠ 0x73 ∧
      exBroadcast.replyDst = .sender ∧ exBroadcast.acceptBroadcast = true ∧ source pollFrame ≠ 0xFF := by decide

/-- 253 payload bytes, and 254 of them on a running block. -/
theorem witness_EncodeBuildsTheFrameOrFaults :
    [0xC1#8].length + (List.replicate 252 0#8).length ≤ 253 ∧
      253 < [0xC1#8].length + (List.replicate 253 0#8).length ∧ State.reset.Running := by decide

theorem witness_EncodedFrameHasItsFieldsAndPassesXchk :
    ∃ r, encodeFrame 0x68 0x73 [0xC1] [] = .ok r := ⟨pollFrame, rfl⟩

theorem witness_StopSetsTheStopFlag :
    State.reset.Running ∧ ¬ (withConfig Config.ex |>.faultedWith ⟨.encodeTooLong, 254⟩).Running ∧
      ({ State.reset with stopped := true } : State).stopped = true := by decide

/-- EX, and a configuration at the bounds of WF2 to WF6. -/
theorem witness_ResetWritesEveryElement :
    configOk Config.ex = true ∧
      configOk { Config.ex with
        cmdSat := List.replicate 253 0, announce := List.replicate 253 0, pfxNow := List.replicate 247 0
        initBand := 15, initPreset := 0, bufCap := 257 } = true := by decide

/-- EX passes every check; one configuration just past the bound of each check does not. -/
theorem witness_ResetIsDefinedExactlyForWellFormedConfigs :
    configOk Config.ex = true ∧ badWf1.cmdPoll = badWf1.cmdNow ∧ ¬ badWf2.cmdSat.length ≤ 253 ∧
      ¬ badWf3.announce.length ≤ 253 ∧ ¬ badWf4.pfxNow.length + 2 + badWf4.nowText.length ≤ 253 ∧
      ¬ badWf5.initBand ≤ 15 ∧ ¬ 257 ≤ badWf6.bufCap := by decide

/-- A faulted and stopped state; and STOP at a normal end. -/
theorem witness_FaultAndStopFlagAreSticky :
    (∃ s t, s.fault = some ⟨.channelOutOfRange, 256⟩ ∧ s.stopped = true ∧ (∀ cfg, Instr.xsum [] ≠ .reset cfg) ∧
      exec (.xsum []) s = .next t) ∧
      ∃ t, (withBuf [0x68]).NormalEnd ∧ (∀ cfg, Instr.stop ≠ .reset cfg) ∧ exec .stop (withBuf [0x68]) = .next t :=
  ⟨⟨{ withChannel 256 with fault := some ⟨.channelOutOfRange, 256⟩, stopped := true }, _, rfl, rfl, nofun, rfl⟩,
    _, by decide, nofun, rfl⟩

theorem witness_HaltedBlockKeepsAllState :
    ∃ s t, ¬ s.Running ∧ (∀ cfg, Instr.feed [0x68] ≠ .reset cfg) ∧ exec (.feed [0x68]) s = .next t :=
  ⟨{ State.reset with stopped := true }, _, by decide, nofun, rfl⟩

theorem witness_OnlyResetWritesConfigBandAndPreset :
    ∃ t, (∀ cfg, Instr.chUp chUpFrame ≠ .reset cfg) ∧ exec (.chUp chUpFrame) State.reset = .next t := ⟨_, nofun, rfl⟩

/-- POLL writes none of the three; CH_UP is no writer of `buf`; EXTRACT no writer of `stopped`. -/
theorem witness_OnlyTheNamedWritersWrite :
    (∃ t, exec (.poll pollFrame) State.reset = .next t) ∧ (∃ t, exec (.chUp chUpFrame) State.reset = .next t) ∧
      ∃ t, exec .extract (withBuf pollFrame) = .next t := ⟨⟨_, rfl⟩, ⟨_, rfl⟩, ⟨_, rfl⟩⟩

theorem witness_ModelFieldsHaveNamedWriters :
    (∃ t, exec (.feed [0x68]) State.reset = .next t) ∧ (∃ t, exec (.xsum [0x68]) State.reset = .next t) ∧
      ∃ t, exec (.poll pollFrame) State.reset = .next t := ⟨⟨_, rfl⟩, ⟨_, rfl⟩, ⟨_, rfl⟩⟩

/-- A trace that holds a frame already, and a step that reports another. -/
theorem witness_EveryReportedFramePassesXchk :
    ∃ t, exec .extract { withBuf nowFrame with trace := [.packetOut pollFrame] } = .next t ∧
      (∀ f, Event.packetOut f ∈ [Event.packetOut pollFrame] → isFrame f = true ∧ xchk f = true) :=
  ⟨_, rfl, fun f h => by
    have : f = pollFrame := by simpa using h
    subst this; decide⟩

/-- One waiting byte, two, and the longest waiting buffer. -/
theorem witness_QuiescentBufferIsShort :
    (withBuf [0x68]).Quiescent ∧ (withBuf [0x68, 0x01]).Quiescent ∧ 2 ≤ (withBuf [0x68, 0x01]).buf.length ∧
      (withBuf ([0x68, 0xFF] ++ List.replicate 254 0)).Quiescent := by decide

/-- A state about to extract a frame, after one extraction. -/
theorem witness_StepKeepsTheInvariant :
    ∃ s t, s.buf = nowFrame ∧ s.trace ≠ [] ∧ s.Inv ∧ step s = .next t :=
  ⟨{ withBuf nowFrame with trace := [.packetOut len1Frame] }, _, rfl, by decide,
    ⟨by decide, rfl, rfl, by decide, by
      intro e he
      have : e = .packetOut len1Frame := by simpa using he
      subst this; exact ⟨by decide, by decide⟩, rfl⟩, rfl⟩

/-- A signal, also while a FEED goes on and where one is over; a control step, a FEED and an empty FEED of the
program. -/
theorem witness_StepRunsTheRequestedOperation :
    ({ State.reset with signals := [some .stop] } : State).signals = some .stop :: [] ∧
      ({ State.reset with signals := [some (.reset Config.ex)] } : State).signals = some (.reset Config.ex) :: [] ∧
      (State.reset.signals = [] ∧ State.reset.feeding = none) ∧
      (let s : State := { State.reset with feeding := some [], line := [0x68], signals := [some .stop] };
        s.feeding ≠ none ∧ ¬ s.FeedOver ∧ s.signals = some .stop :: []) ∧
      (let s : State := { State.reset with feeding := some [], signals := [some .stop] };
        s.feeding = some [] ∧ s.FeedOver ∧ s.signals = some .stop :: []) ∧
      (let s : State := { State.reset with feeding := some [], stopped := true, signals := [some (.reset Config.ex)] };
        s.feeding = some [] ∧ s.FeedOver ∧ s.signals = some (.reset Config.ex) :: []) ∧
      ({ State.reset with requests := [.control .stop, .feed []] } : State).requests =
        .control .stop :: [.feed []] ∧
      ({ State.reset with requests := [.control (.reset Config.ex)] } : State).requests =
        .control (.reset Config.ex) :: [] ∧
      ({ State.reset with requests := [.feed [0x68]] } : State).requests = .feed [0x68] :: [] ∧
      ({ State.reset with requests := [.feed []] } : State).requests = .feed [] :: [] := by decide

/-- One state for each of the four clauses; a step the host passes at is none it signals at. -/
theorem witness_StepRunsTheDecodedOperation :
    (let s : State := { State.reset with stopped := true };
      s.signals = [] ∧ s.feeding = none ∧ s.requests = [] ∧ ¬ s.Running) ∧
      (let s := withBuf pollFrame;
        s.requests = [] ∧ s.Running ∧ ¬ s.Quiescent ∧ decoded s.config .head s.buf = some .extract) ∧
      (let s : State := { State.reset with line := [0x68] };
        s.requests = [] ∧ s.Running ∧ s.Quiescent ∧ s.buf.length < s.config.bufCap ∧ s.line = 0x68 :: [] ∧
          decoded s.config .line [0x68] = some (.push 0x68)) ∧
      (let s := withBuf [0x68]; s.requests = [] ∧ s.Running ∧ s.Quiescent ∧ s.line = []) ∧
      ({ State.reset with signals := [none, some .stop] } : State).signals.head? ≠ some (some .stop) := by decide

/-- A step for each of the four operations, and one that changes nothing; and a normal end. -/
theorem witness_EveryStepIsPushFstepStopOrReset :
    (∃ t, step { State.reset with line := [0x68] } = .next t) ∧ (∃ t, step (withBuf chUpFrame) = .next t) ∧
      (∃ t, step { withBuf chUpFrame with signals := [some .stop] } = .next t) ∧
      (∃ t, step { State.reset with requests := [.control (.reset Config.ex)] } = .next t) ∧
      (∃ t, step { State.reset with requests := [.feed chUpFrame] } = .next t) ∧
      let s : State := { withBuf [0x68] with stopped := true, requests := [.feed []] };
      s.NormalEnd ∧ s.Unsignalled ∧ ∀ r ∈ s.requests, ∃ bs, r = .feed bs :=
  ⟨⟨_, rfl⟩, ⟨_, rfl⟩, ⟨_, rfl⟩, ⟨_, rfl⟩, ⟨_, rfl⟩, by decide, nofun, by simp⟩

theorem witness_DecodeInvertsEncode :
    (wellFormed Config.ex .extract = true ∧ encode Config.ex .extract = some (.head, [0x68, 0x02, 0x00, 0x6A])) ∧
      (wellFormed Config.ex (.push 0xFF) = true ∧ encode Config.ex (.push 0xFF) = some (.line, [0xFF])) ∧
      (wellFormed Config.ex (.poll pollFrame) = true ∧
        encode Config.ex (.poll pollFrame) = some (.frame, pollFrame)) := by decide

theorem witness_EveryEncodableOperationHasAWord :
    wellFormed Config.ex .dropUnknownSrc = true ∧ wellFormed Config.ex .stop = true := by decide

end Sys2Proof.Tests
end

section
/-! The phase of the framer (spec/10_state.md R23): which actions stand for each phase, and O8. -/

namespace Sys2Proof.Machine

theorem Action.phase_eq_awaitingBytes_iff (a : Action) :
    a.phase = .awaitingBytes ↔ a = .waitShort ∨ a = .waitIncomplete := by
  cases a <;> simp [Action.phase]

theorem Action.phase_eq_extractedPacket_iff (a : Action) : a.phase = .extractedPacket ↔ a = .extract := by
  cases a <;> simp [Action.phase]

theorem Action.phase_eq_resyncing_iff (a : Action) :
    a.phase = .resyncing ↔ a = .dropZeroLen ∨ a = .dropUnknownSrc ∨ a = .dropBadChecksum := by
  cases a <;> simp [Action.phase]

/-- With fewer than two bytes PF waits (row 1 of R76). -/
theorem phase_short (cfg : Config) {buf : List Byte} (h : buf.length < 2) : phase cfg buf = .awaitingBytes :=
  (Action.phase_eq_awaitingBytes_iff _).2 (.inl (classify_short cfg h))

/-- Settles O8: the phase is that of the selected action, so each group is a fact about the six actions. -/
theorem phaseGroupsTheActions : Obligations.PhaseGroupsTheActions := by
  intro cfg buf
  have awaiting := Action.phase_eq_awaitingBytes_iff (classify cfg buf)
  have extracted := Action.phase_eq_extractedPacket_iff (classify cfg buf)
  have resyncing := Action.phase_eq_resyncing_iff (classify cfg buf)
  exact ⟨awaiting, extracted, resyncing, phase_short cfg (by simp), rfl, rfl, rfl⟩

end Sys2Proof.Machine
end

section
/-! PF's action table (spec/30_encoding.md R76, spec/41_framer.md R110) as one chain of tests on the whole buffer,
and O7. -/

namespace Sys2Proof.Machine

theorem badLength_iff (cfg : Config) (len : Byte) :
    BadLength cfg len ↔ len.toNat = 0 ∨ (len.toNat = 1 ∧ cfg.acceptLen1 = false) := by
  simp only [BadLength, ← BitVec.toNat_inj]
  rfl

theorem xchk_iff (f : List Byte) :
    xchk f = true ↔ xsum (f.take (lenByte f + 1)) = f.getD (lenByte f + 1) 0 := beq_iff_eq

/-- `classify` on any buffer: the rows of R76 in their order, each test read off the buffer's fields. -/
theorem classify_eq_rows (cfg : Config) (buf : List Byte) :
    classify cfg buf =
      if buf.length < 2 then .waitShort
      else if lenByte buf = 0 ∨ (lenByte buf = 1 ∧ cfg.acceptLen1 = false) then .dropZeroLen
      else if recognized cfg (source buf) = false then .dropUnknownSrc
      else if buf.length < lenByte buf + 2 then .waitIncomplete
      else if xsum (buf.take (lenByte buf + 1)) = buf.getD (lenByte buf + 1) 0 then .extract
      else .dropBadChecksum := by
  rcases buf_cases buf with hs | ⟨a, len, rest, rfl⟩
  · rw [classify_short cfg hs, if_pos hs]
  · have hs : ¬ (a :: len :: rest).length < 2 := by simp
    have hl : rest.length < len.toNat ↔ (a :: len :: rest).length < len.toNat + 2 := by simp
    simp only [classify_cons, if_neg hs, badLength_iff, hl, xchk_iff, lenByte_cons]
    rfl

/-- Settles O7: walk down the table. At each row either its test holds, and `classify` answers its action, or it fails
and the rows below decide. -/
theorem classifyFollowsTheActionTable : Obligations.ClassifyFollowsTheActionTable := by
  intro cfg buf L short badLen unknown incomplete good
  have rows : classify cfg buf = if short then .waitShort else if badLen then .dropZeroLen
      else if unknown then .dropUnknownSrc else if incomplete then .waitIncomplete
      else if good then .extract else .dropBadChecksum := classify_eq_rows cfg buf
  by_cases hs : short
  · simp [rows, hs]
  by_cases hb : badLen
  · simp [rows, hs, hb]
  by_cases hu : unknown
  · simp [rows, hs, hb, hu]
  by_cases hi : incomplete
  · simp [rows, hs, hb, hu, hi]
  by_cases hg : good <;> simp [rows, hs, hb, hu, hi, hg]

end Sys2Proof.Machine
end

section
/-! ER's command table (spec/30_encoding.md R77, spec/42_responder.md R140) as a lookup by payload, and O35. -/

namespace Sys2Proof.Machine

/-- Rows 2 to 8 of R77: each command field with the kind it selects. -/
def commandTable (cfg : Config) : List (List Byte × Kind) :=
  [(cfg.cmdPoll, .poll), (cfg.cmdPower, .power), (cfg.cmdMode, .mode), (cfg.cmdNow, .now), (cfg.cmdChUp, .chUp),
    (cfg.cmdChDown, .chDown), (cfg.cmdSat, .sat)]

theorem map_fst_commandTable (cfg : Config) : (commandTable cfg).map Prod.fst = commandFields cfg := rfl

/-- Where no key stands twice, every entry is the first one with its key. -/
theorem lookup_eq_some_of_mem {α β : Type} [BEq α] [LawfulBEq α] {a : α} {b : β} {l : List (α × β)}
    (hd : (l.map Prod.fst).Nodup) (h : (a, b) ∈ l) : l.lookup a = some b := by
  obtain ⟨l₁, l₂, rfl⟩ := List.append_of_mem h
  rw [List.map_append, List.nodup_append] at hd
  obtain ⟨-, -, hdisj⟩ := hd
  exact List.lookup_eq_some_iff.2 ⟨l₁, l₂, rfl, fun e he =>
    bne_iff_ne.2 (hdisj e.1 (List.mem_map_of_mem he) a (by simp)).symm⟩

theorem getD_lookup_cons (p c : List Byte) (k d : Kind) (l : List (List Byte × Kind)) :
    (((c, k) :: l).lookup p).getD d = if p = c then k else (l.lookup p).getD d := by
  by_cases h : p = c
  · simp [h]
  · simp [List.lookup_cons, beq_eq_false_iff_ne.2 h, h]

theorem commandKind_eq_lookup (cfg : Config) (p : List Byte) :
    commandKind cfg p = ((commandTable cfg).lookup p).getD .unhandled := by
  simp only [commandKind, commandTable, getD_lookup_cons, List.lookup_nil, Option.getD_none]

/-- WF1 makes the order of rows 2 to 8 of R77 irrelevant: any row whose field the payload equals selects the kind. -/
theorem commandKind_of_mem {cfg : Config} {p : List Byte} {k : Kind} (hc : configOk cfg = true)
    (h : (p, k) ∈ commandTable cfg) : commandKind cfg p = k := by
  have hd : ((commandTable cfg).map Prod.fst).Nodup := by
    rw [map_fst_commandTable]
    exact (passes_wf1_iff cfg).1 ((configOk_iff cfg).1 hc .wf1)
  rw [commandKind_eq_lookup, lookup_eq_some_of_mem hd h, Option.getD_some]

theorem commandKind_of_not_mem {cfg : Config} {p : List Byte} (h : p ∉ commandFields cfg) :
    commandKind cfg p = .unhandled := by
  rw [← map_fst_commandTable] at h
  have hn : (commandTable cfg).lookup p = none :=
    List.lookup_eq_none_iff.2 fun e he => bne_iff_ne.2 fun hp => h (hp ▸ List.mem_map_of_mem he)
  rw [commandKind_eq_lookup, hn, Option.getD_none]

theorem addressed_iff (cfg : Config) (f : List Byte) :
    addressed cfg f = true ↔ destination f = 0x73 ∨ (cfg.acceptBroadcast = true ∧ destination f = 0xFF) := by
  simp only [addressed, Config.emuAddr, Config.broadcastAddr, Bool.or_eq_true, Bool.and_eq_true, beq_iff_eq]

theorem kindOf_of_addressedFrame {cfg : Config} {f : List Byte} (h : AddressedFrame cfg f) :
    kindOf cfg f = commandKind cfg (payload f) := by
  obtain ⟨-, hlen, hdst⟩ := h
  rw [kindOf, if_neg (by omega), if_neg (by simp [(addressed_iff cfg f).2 hdst])]

/-- Row 1 of R77. -/
theorem kindOf_of_not_addressedFrame {cfg : Config} {f : List Byte} (hf : isFrame f = true)
    (h : ¬ AddressedFrame cfg f) : kindOf cfg f = .ignore := by
  by_cases hlen : lenByte f < 2
  · rw [kindOf, if_pos hlen]
  · have hdst : addressed cfg f = false :=
      Bool.eq_false_iff.2 fun ha => h ⟨hf, by omega, (addressed_iff cfg f).1 ha⟩
    rw [kindOf, if_neg hlen, if_pos hdst]

theorem decode_frame {cfg : Config} {f : List Byte} (hf : isFrame f = true) :
    decode cfg .frame f = .ok (kindInstr (kindOf cfg f) f) := by
  rw [decode, if_pos hf]

/-- Settles O35: a frame decodes to the operation of its kind; the address test decides row 1, and the payload, looked
up among the command fields, decides the rest. -/
theorem frameDecodeFollowsTheCommandTable : Obligations.FrameDecodeFollowsTheCommandTable := by
  intro cfg f hc hf
  have ignored (h : ¬ AddressedFrame cfg f) : decode cfg .frame f = .ok (.ignore f) := by
    rw [decode_frame hf, kindOf_of_not_addressedFrame hf h, kindInstr]
  refine ⟨ignored, fun ha => ?_⟩
  have row {c : List Byte} {k : Kind} (hk : (c, k) ∈ commandTable cfg) (hp : payload f = c) :
      decode cfg .frame f = .ok (kindInstr k f) := by
    rw [decode_frame hf, kindOf_of_addressedFrame ha, hp, commandKind_of_mem hc hk]
  have unhandled (hp : payload f ∉ commandFields cfg) : decode cfg .frame f = .ok (.unhandled f) := by
    rw [decode_frame hf, kindOf_of_addressedFrame ha, commandKind_of_not_mem hp, kindInstr]
  exact ⟨row (k := .poll) (by simp [commandTable]), row (k := .power) (by simp [commandTable]),
    row (k := .mode) (by simp [commandTable]), row (k := .now) (by simp [commandTable]),
    row (k := .chUp) (by simp [commandTable]), row (k := .chDown) (by simp [commandTable]),
    row (k := .sat) (by simp [commandTable]), unhandled⟩

end Sys2Proof.Machine
end

section
/-! CV (spec/40_checksum.md R100, R101): the laws of XSUM, what XCHK reads of its operand, the frame of the two
functions, O1 and O2. -/

namespace Sys2Proof.Machine

theorem xsum_append (s t : List Byte) : xsum (s ++ t) = xsum s ^^^ xsum t := by
  rw [xsum, List.foldl_append]
  exact foldl_xor_eq t (xsum s)

theorem xsum_singleton (b : Byte) : xsum [b] = b := (xsum_cons b []).trans BitVec.xor_zero

/-- The loop of R100: each further byte is taken in by XOR. -/
theorem xsum_concat (s : List Byte) (b : Byte) : xsum (s ++ [b]) = xsum s ^^^ b := by
  rw [xsum_append, xsum_singleton]

theorem xsum_pair_self (b : Byte) : xsum [b, b] = 0 := by
  rw [xsum_cons, xsum_singleton]
  exact BitVec.xor_self

/-- XSUM does not see the order of the bytes, for XOR is associative and commutative. -/
theorem xsum_perm {s t : List Byte} (h : s.Perm t) : xsum s = xsum t := h.foldl_op_eq

theorem xsum_eq_foldr (s : List Byte) : xsum s = s.foldr (fun b acc => b ^^^ acc) 0 := by
  induction s with
  | nil => rfl
  | cons b s ih => rw [xsum_cons, List.foldr_cons, ih]

theorem lenByte_append {f : List Byte} (h : 2 ≤ f.length) (more : List Byte) : lenByte (f ++ more) = lenByte f := by
  rw [lenByte, List.getD_append _ _ _ _ h, lenByte]

/-- Bytes behind the checksum byte do not matter to XCHK: what it reads is the frame at the head. -/
theorem xchk_append {f : List Byte} (h2 : 2 ≤ f.length) (hl : lenByte f + 2 ≤ f.length) (more : List Byte) :
    xchk (f ++ more) = xchk f := by
  calc xchk (f ++ more)
      = xchk ((f ++ more).take (lenByte f + 2)) := by rw [← lenByte_append h2 more, xchk_take]
    _ = xchk (f.take (lenByte f + 2)) := by rw [List.take_append_of_le_length hl]
    _ = xchk f := xchk_take f

/-- The least frame of R73, `L = 1`: XCHK compares the XOR of its first two bytes with the third. -/
theorem xchk_len1_iff (a c : Byte) : xchk [a, 1, c] = true ↔ a ^^^ 1 = c := by
  have hx : xsum [a, 1] = a ^^^ 1 := by rw [xsum_cons, xsum_singleton]
  rw [xchk_iff, ← hx]
  rfl

/-- Handing a value back writes nothing of the block. -/
theorem sameBlock_answerWith (v : Answer) (s : State) : (answerWith v s).SameBlock s := by
  simp [State.SameBlock, answerWith]

theorem exec_xsum (bs : List Byte) (s : State) : exec (.xsum bs) s = .next (answerWith (.byte (xsum bs)) s) := rfl

theorem exec_xchk (f : List Byte) (s : State) :
    exec (.xchk f) s = .next (answerWith (.bool (xchkAnswer f)) s) := rfl

/-- Settles O1: the laws are those of XOR along the list, and the only write of XSUM is its answer. -/
theorem xsumFoldsXorAndWritesNoState : Obligations.XsumFoldsXorAndWritesNoState :=
  ⟨⟨xsum_nil, xsum_concat⟩, fun _ _ => xsum_perm, xsum_pair_self, by decide,
    fun bs s _ => ⟨_, exec_xsum bs s, sameBlock_answerWith _ s⟩⟩

/-- Settles O2: XCHK compares two values read off the first `L + 2` bytes, and its only write is its answer. -/
theorem xchkComparesXsumAndWritesNoState : Obligations.XchkComparesXsumAndWritesNoState := by
  refine ⟨?_, xchk_len1_iff, by decide, by decide, fun f s _ _ _ => ⟨_, exec_xchk f s, sameBlock_answerWith _ s⟩⟩
  rintro f L h2 rfl hl
  exact ⟨by rw [xchk_iff, xsum_eq_foldr]; rfl, xchk_append h2 hl⟩

end Sys2Proof.Machine
end

section
/-! What each step of PF answers: PUSH where it is enabled and where it is not, FSTEP, and a PF action or an ER kind on
a running block where its decode row selects it (spec/41_framer.md R111, R112, spec/42_responder.md R140). -/

namespace Sys2Proof.Machine

/-! ### PUSH -/

theorem exec_push_of_enabled {s : State} (h : pushEnabled s = true) (b : Byte) :
    exec (.push b) s = .next (bufPush b s) := by
  obtain ⟨hr, hq, hcap⟩ := (pushEnabled_iff s).1 h
  change execPush b s = _
  rw [execPush, whenRunning_of_running hr, if_pos hq, if_pos hcap]

theorem exec_push_of_not_enabled {s : State} (h : ¬ pushEnabled s = true) (b : Byte) :
    ∃ r, exec (.push b) s = .refused r := by
  change ∃ r, execPush b s = .refused r
  by_cases hr : s.Running
  swap
  · exact whenRunning_of_not_running hr _
  rw [execPush, whenRunning_of_running hr]
  by_cases hq : s.Quiescent
  · have hcap : ¬ s.buf.length < s.config.bufCap := fun hc => h ((pushEnabled_iff s).2 ⟨hr, hq, hc⟩)
    exact ⟨.bufferFull, by rw [if_pos hq, if_neg hcap]⟩
  · exact ⟨.notQuiescent, if_neg hq⟩

/-! ### PF's actions -/

theorem exec_actionInstr_eq {a : Action} {s u : State} (h : performAction a s = some u) :
    exec (actionInstr a) s = whenRunning s (whenAction a s u) := by
  cases a with
  | waitShort => cases h
  | waitIncomplete => cases h
  | dropZeroLen => cases h; rfl
  | dropUnknownSrc => cases h; rfl
  | extract => cases h; rfl
  | dropBadChecksum => cases h; rfl

theorem exec_actionInstr_of_selected {a : Action} {s u : State} (hr : s.Running)
    (hc : classify s.config s.buf = a) (h : performAction a s = some u) : exec (actionInstr a) s = .next u := by
  rw [exec_actionInstr_eq h, whenRunning_of_running hr, whenAction_eq_next.2 ⟨hc, rfl⟩]

/-! ### FSTEP -/

theorem frameStep_of_running {s : State} (hr : s.Running) :
    frameStep s = performAction (classify s.config s.buf) s := by
  rw [frameStep, (halted_eq_false_iff s).2 hr]
  rfl

theorem exec_fstep_eq_next {s t : State} : exec .fstep s = .next t ↔ frameStep s = some t := execFstep_eq_next

theorem exec_fstep_of_frameStep_eq_none {s : State} (h : frameStep s = none) : ∃ r, exec .fstep s = .refused r := by
  change ∃ r, execFstep s = .refused r
  by_cases hr : s.Running
  · rw [frameStep_of_running hr] at h
    exact ⟨.quiescent, by rw [execFstep, whenRunning_of_running hr, h]⟩
  · exact whenRunning_of_not_running hr _

/-! ### ER's kinds -/

/-- The pseudocode of one kind of R77; `handle` performs the one that the frame selects (`handle_eq_performKind`), and
each kind's operation performs its own (`exec_kindInstr_eq`). -/
def performKind (k : Kind) (f : List Byte) (s : State) : State :=
  match k with
  | .ignore => performIgnore f s
  | .poll => performPoll f s
  | .power => performPower f s
  | .mode => performMode f s
  | .now => performNow f s
  | .chUp => performChUp f s
  | .chDown => performChDown f s
  | .sat => performSat f s
  | .unhandled => performUnhandled f s

theorem handle_eq_performKind (f : List Byte) (s : State) : handle f s = performKind (kindOf s.config f) f s := by
  rw [handle]
  cases kindOf s.config f <;> rfl

theorem exec_kindInstr_eq (k : Kind) (f : List Byte) (s : State) :
    exec (kindInstr k f) s = whenKind k f s (performKind k f s) := by
  cases k <;> rfl

theorem exec_kindInstr_of_selected {f : List Byte} {s : State} (hr : s.Running) (hf : isFrame f = true) :
    exec (kindInstr (kindOf s.config f) f) s = .next (handle f s) := by
  rw [exec_kindInstr_eq, handle_eq_performKind]
  exact whenKind_eq_next.2 ⟨hr, hf, rfl, rfl⟩

/-- ER does not touch the pending buffer (R22). -/
@[simp] theorem handle_buf (f : List Byte) (s : State) : (handle f s).buf = s.buf :=
  handle_induct (P := fun t => t.buf = s.buf) (fun _ => rfl) (fun _ _ _ _ _ => rfl) (fun _ _ => rfl) fun _ _ => rfl

end Sys2Proof.Machine
end

section
/-! PF's steps (spec/41_framer.md R111 to R118): O10, O11, O13, O14, O15 and O16. -/

namespace Sys2Proof.Machine

/-! ### PUSH -/

theorem lenByte_le (buf : List Byte) : lenByte buf ≤ 255 := Nat.le_of_lt_succ (BitVec.isLt _)

/-- A buffer that waits lacks at least one byte of the longest frame, of 257 bytes (R39). -/
theorem length_le_of_quiescent {s : State} (h : s.Quiescent) : s.buf.length ≤ 256 := by
  have hL := lenByte_le s.buf
  obtain ⟨hshort, -, -, hincomplete, -, -⟩ := classifyFollowsTheActionTable s.config s.buf
  rcases (Action.phase_eq_awaitingBytes_iff _).1 h with hc | hc
  · have : s.buf.length < 2 := hshort.1 hc
    omega
  · obtain ⟨-, -, -, hlt⟩ := hincomplete.1 hc
    have : s.buf.length < lenByte s.buf + 2 := hlt
    omega

/-- Each phase is reached by a PUSH: the first byte, the checksum of a frame of length 1, a length byte of 0. -/
theorem exists_push_to_phase (ph : Phase) :
    ∃ (b : Byte) (s t : State), exec (.push b) s = .next t ∧ phase t.config t.buf = ph := by
  cases ph with
  | awaitingBytes => exact ⟨0x68, State.reset, _, exec_push_of_enabled (by decide) _, by decide⟩
  | extractedPacket =>
    exact ⟨0x69, { State.reset with buf := [0x68, 0x01] }, _, exec_push_of_enabled (by decide) _, by decide⟩
  | resyncing => exact ⟨0x00, { State.reset with buf := [0x68] }, _, exec_push_of_enabled (by decide) _, by decide⟩

/-- Settles O10: the three conditions are `pushEnabled`, and the bound is that of a waiting buffer and one byte. -/
theorem pushAppendsItsByteWhereEnabled : Obligations.PushAppendsItsByteWhereEnabled := by
  refine ⟨fun b s => ?_, exists_push_to_phase⟩
  rw [← pushEnabled_iff]
  refine ⟨fun he => ⟨exec_push_of_enabled he b, ?_⟩, fun he => exec_push_of_not_enabled he b⟩
  obtain ⟨-, hq, -⟩ := (pushEnabled_iff s).1 he
  have := length_le_of_quiescent hq
  rw [List.length_append, List.length_singleton]
  omega

/-! ### FSTEP -/

/-- Every FSTEP shortens the buffer (R112). -/
theorem frameStep_length_lt {s t : State} (h : frameStep s = some t) : t.buf.length < s.buf.length := by
  obtain ⟨-, -, ⟨a, len, rest, c, hb, rfl⟩ | ⟨f, rest, hb, -, -, -, hlen, rfl⟩⟩ := frameStep_cases h
  · simp [hb]
  · have hpos : 0 < f.length := by rw [hlen, headSize]; omega
    simp only [handle_buf, emit_buf, bufDropFront_buf, hb, List.length_drop, List.length_append]
    omega

/-- Settles O11: where FSTEP is enabled, both operations are the one step of the selected action. -/
theorem fstepPerformsTheSelectedAction : Obligations.FstepPerformsTheSelectedAction := by
  refine fun s => ⟨fun ⟨hr, hq⟩ => ?_, fun h => exec_fstep_of_frameStep_eq_none (frameStep_eq_none.2 h)⟩
  obtain ⟨t, ht⟩ := frameStep_isSome hr hq
  have hfstep : exec .fstep s = .next t := exec_fstep_eq_next.2 ht
  have haction : exec (actionInstr (classify s.config s.buf)) s = .next t :=
    exec_actionInstr_of_selected hr rfl (by rw [← frameStep_of_running hr, ht])
  exact ⟨hfstep.trans haction.symm, t, hfstep, frameStep_length_lt ht⟩

/-! ### The three drops -/

theorem dropFirst_eq {s : State} {a : Byte} {rest : List Byte} (h : s.buf = a :: rest) (c : Cause) :
    dropFirst c s = { s with buf := rest, trace := s.trace ++ [.dropped a c] } := by
  simp [dropFirst, emit, bufDropFront, bufRead, h]

theorem exec_drop_of_selected {act : Action} {s : State} {a : Byte} {rest : List Byte} {c : Cause} (hr : s.Running)
    (hb : s.buf = a :: rest) (hc : classify s.config s.buf = act) (hp : performAction act s = some (dropFirst c s)) :
    exec (actionInstr act) s = .next { s with buf := rest, trace := s.trace ++ [.dropped a c] } := by
  rw [exec_actionInstr_of_selected hr hc hp, dropFirst_eq hb]

theorem not_badLength {cfg : Config} {len : Byte} (h0 : len ≠ 0) (h1 : len = 1 → cfg.acceptLen1 = true) :
    ¬ BadLength cfg len := by
  rintro (h | ⟨h, hacc⟩)
  · exact h0 h
  · exact absurd (h1 h) (by simp [hacc])

theorem classify_of_badLength {cfg : Config} {len : Byte} (h : BadLength cfg len) (a : Byte) (rest : List Byte) :
    classify cfg (a :: len :: rest) = .dropZeroLen := by
  rw [classify_cons, if_pos h]

theorem exec_dropZeroLen_of_badLength {s : State} {a len : Byte} {rest : List Byte} (hr : s.Running)
    (hb : s.buf = a :: len :: rest) (h : BadLength s.config len) :
    exec .dropZeroLen s =
      .next { s with buf := len :: rest, trace := s.trace ++ [.dropped a (zeroLenCause len)] } := by
  have hlen : bufRead 1 s = len := by rw [bufRead, hb]; rfl
  have hc : classify s.config s.buf = .dropZeroLen := by rw [hb, classify_of_badLength h]
  exact exec_drop_of_selected hr hb hc (by rw [performAction, performDropZeroLen, hlen])

/-- Settles O13: both lengths are the bad ones of row 2, and the length byte read names the cause. -/
theorem dropZeroLenDropsTheFirstByte : Obligations.DropZeroLenDropsTheFirstByte := by
  intro s a len rest hr hb
  refine ⟨?_, ?_, rfl, rfl⟩
  · rintro rfl
    exact exec_dropZeroLen_of_badLength hr hb (.inl rfl)
  · rintro rfl hacc
    exact exec_dropZeroLen_of_badLength hr hb (.inr ⟨rfl, hacc⟩)

/-- Settles O14: row 2 fails and row 3 holds. -/
theorem dropUnknownSrcDropsTheFirstByte : Obligations.DropUnknownSrcDropsTheFirstByte := by
  intro s a len rest hr hb h0 h1 hdev
  have hc : classify s.config s.buf = .dropUnknownSrc := by
    rw [hb, classify_cons, if_neg (not_badLength h0 h1)]
    exact if_pos hdev
  exact ⟨exec_drop_of_selected hr hb hc rfl, rfl⟩

/-- On a complete candidate frame with a recognized source, XCHK decides between rows 5 and 6 of R76. -/
theorem classify_complete {cfg : Config} {a len : Byte} {rest : List Byte} (h0 : len ≠ 0)
    (h1 : len = 1 → cfg.acceptLen1 = true) (hdev : recognized cfg a = true) (hl : len.toNat ≤ rest.length) :
    classify cfg (a :: len :: rest) = if xchk (a :: len :: rest) = true then .extract else .dropBadChecksum := by
  rw [classify_cons, if_neg (not_badLength h0 h1), if_neg (by simp [hdev]), if_neg (Nat.not_lt.2 hl)]

/-- Settles O15: the candidate is complete, and XCHK selects row 6. -/
theorem dropBadChecksumDropsTheFirstByte : Obligations.DropBadChecksumDropsTheFirstByte := by
  intro s a len rest hr hb h0 h1 hdev hl hx
  have hc : classify s.config s.buf = .dropBadChecksum := by
    rw [hb] at hx ⊢
    rw [classify_complete h0 h1 hdev hl, if_neg (by simp [hx])]
  exact ⟨exec_drop_of_selected hr hb hc rfl, rfl⟩

/-! ### EXTRACT -/

/-- A valid frame at the head of the buffer selects EXTRACT, whatever follows it (row 5 of R76). -/
theorem classify_of_frame {cfg : Config} {f : List Byte} (hf : isFrame f = true) (hx : xchk f = true)
    (h1 : lenByte f = 1 → cfg.acceptLen1 = true) (hdev : recognized cfg (source f) = true) (rest : List Byte) :
    classify cfg (f ++ rest) = .extract := by
  obtain ⟨hpos, hlen⟩ := (isFrame_iff f).1 hf
  have hxr : xchk (f ++ rest) = true := by rw [xchk_append (by omega) hlen.ge, hx]
  obtain hs | ⟨a, len, body, rfl⟩ := buf_cases f
  · omega
  simp only [lenByte_cons, List.length_cons] at hpos hlen h1
  have h0 : len ≠ 0 := by rintro rfl; exact absurd hpos (by decide)
  have h1' : len = 1 → cfg.acceptLen1 = true := by rintro rfl; exact h1 rfl
  have hl : len.toNat ≤ (body ++ rest).length := by rw [List.length_append]; omega
  exact (classify_complete h0 h1' hdev hl).trans (if_pos hxr)

/-- EXTRACT is ER's handling of the frame in the state where the frame has left the buffer and is reported (R117). -/
theorem performExtract_eq {s : State} {f rest : List Byte} (hb : s.buf = f ++ rest) (hf : isFrame f = true) :
    performExtract s = handle f { s with buf := rest, trace := s.trace ++ [.packetOut f] } := by
  obtain ⟨hpos, hlen⟩ := (isFrame_iff f).1 hf
  have hsize : headSize s = f.length := by
    rw [hlen, ← lenByte_append (by omega) rest, ← hb]
    rfl
  simp only [performExtract, hsize, emit, bufDropFront, hb, List.take_left, List.drop_left]

/-- Settles O16: EXTRACT and the decoded kind, performed after the removal and the report, are both `handle`. -/
theorem extractRemovesTheFrameAndHandlesIt : Obligations.ExtractRemovesTheFrameAndHandlesIt := by
  intro s f rest hr hb hf hx h1 hdev
  have hc : classify s.config s.buf = .extract := by rw [hb, classify_of_frame hf hx h1 hdev]
  have hextract : exec .extract s = .next (performExtract s) := exec_actionInstr_of_selected hr hc rfl
  rw [performExtract_eq hb hf] at hextract
  have hkind := exec_kindInstr_of_selected (s := { s with buf := rest, trace := s.trace ++ [.packetOut f] }) hr hf
  exact ⟨_, _, decode_frame hf, hextract.trans hkind.symm, hextract, handle_buf f _⟩

end Sys2Proof.Machine
end

section
/-! The frame that ENCODE builds (spec/43_encoder.md R170), as the wire form of R70. -/

namespace Sys2Proof.Machine

theorem foldr_xor_eq (p : List Byte) (a : Byte) : p.foldr (fun b acc => b ^^^ acc) a = xsum p ^^^ a := by
  induction p with
  | nil => exact BitVec.zero_xor.symm
  | cons b p ih => rw [List.foldr_cons, ih, xsum_cons, BitVec.xor_assoc]

/-- The checksum of the wire form is XSUM of the bytes before it (R70, R100). -/
theorem wireFrame_eq (src dst : Byte) (p : List Byte) :
    wireFrame src dst p = [src, BitVec.ofNat 8 (p.length + 2), dst] ++ p ++
      [xsum ([src, BitVec.ofNat 8 (p.length + 2), dst] ++ p)] := by
  have hsum (len : Byte) : xsum ([src, len, dst] ++ p) = xsum p ^^^ (src ^^^ len ^^^ dst) := by
    rw [xsum_append, xsum_cons, xsum_cons, xsum_singleton, BitVec.xor_comm, BitVec.xor_assoc]
  rw [hsum, wireFrame, foldr_xor_eq]
  rfl

theorem encodeFrame_of_le {cmd text : List Byte} (h : cmd.length + text.length ≤ 253) (src dst : Byte) :
    encodeFrame src dst cmd text = .ok (wireFrame src dst (cmd ++ text)) := by
  obtain ⟨-, he⟩ | ⟨hlong, -⟩ := encodeFrame_cases src dst cmd text
  · rw [he, wireFrame_eq, List.length_append]
  · omega

end Sys2Proof.Machine
end

section
/-! ER's replies (spec/42_responder.md R150, R151): STATE() on a block whose band and preset are nibbles, the reply that
fits a frame, and the two ends of a status reply. -/

namespace Sys2Proof.Machine

/-- A nibble below a shifted byte: the OR adds them, as the number `16 * b + p` (R150). -/
theorem packNibbles_eq {b p : Int} (hb0 : 0 ≤ b) (hp0 : 0 ≤ p) (hp : p ≤ 15) :
    (BitVec.ofNat 8 b.toNat <<< 4) ||| BitVec.ofNat 8 p.toNat = BitVec.ofInt 8 (16 * b + p) := by
  lift b to ℕ using hb0
  lift p to ℕ using hp0
  have hshift : BitVec.ofNat 8 b <<< 4 = BitVec.ofNat 8 (b <<< 4) := by
    apply BitVec.eq_of_toNat_eq
    simp [Nat.shiftLeft_eq]
  have hor : b <<< 4 ||| p = 16 * b + p := by
    rw [← Nat.shiftLeft_add_eq_or_of_lt (by omega), Nat.shiftLeft_eq, Nat.mul_comm]
  calc BitVec.ofNat 8 b <<< 4 ||| BitVec.ofNat 8 p
      = BitVec.ofNat 8 (b <<< 4 ||| p) := by rw [BitVec.ofNat_or, hshift]
    _ = BitVec.ofNat 8 (16 * b + p) := by rw [hor]
    _ = BitVec.ofInt 8 (16 * b + p) := by rw [← BitVec.ofInt_natCast]; rfl

theorem stateBytes_of_range {s : State} (hn : s.NibbleState) (h0 : 0 ≤ s.channel) (h1 : s.channel ≤ 255) :
    stateBytes s = .ok (statusBytes s) := by
  obtain ⟨hb0, hb, hp0, hp⟩ := hn
  have hc : BitVec.ofNat 8 s.channel.toNat = BitVec.ofInt 8 s.channel := by
    rw [← BitVec.ofInt_natCast, Int.toNat_of_nonneg h0]
  simp only [stateBytes, toByte_of_range h0 h1, toByte_of_range hb0 (by omega), toByte_of_range hp0 (by omega),
    packNibbles_eq hb0 hp0 hp, hc, statusBytes]

theorem stateBytes_of_out {s : State} (h : s.channel < 0 ∨ 255 < s.channel) :
    stateBytes s = .error ⟨.channelOutOfRange, s.channel⟩ := by
  simp only [stateBytes, toByte_of_out h]

@[simp] theorem statusBytes_length (s : State) : (statusBytes s).length = 2 := rfl

/-- The architect's description of a faulted state is what the shared operation `raise` leaves (R185). -/
theorem raise_eq_faultedWith (r : FaultRecord) (s : State) : raise r s = s.faultedWith r := rfl

theorem sendReply_of_le {cmd text : List Byte} (h : cmd.length + text.length ≤ 253) (f : List Byte) (s : State) :
    sendReply f cmd text s = emit (.replyOut (wireFrame 0x73 (replyDst s.config f) (cmd ++ text))) s := by
  rw [sendReply, encodeFrame_of_le h]
  rfl

/-- WF4: the status reply of each kind fits a frame. -/
theorem statusFields_length_le {cfg : Config} {pfx text : List Byte} (hc : configOk cfg = true)
    (h : (pfx, text) ∈ statusFields cfg) : pfx.length + 2 + text.length ≤ 253 :=
  (passes_wf4_iff cfg).1 ((configOk_iff cfg).1 hc .wf4) (pfx, text) h

theorem statusReply_of_range {s : State} {pfx text : List Byte} (hc : configOk s.config = true) (hn : s.NibbleState)
    (ht : (pfx, text) ∈ statusFields s.config) (h0 : 0 ≤ s.channel) (h1 : s.channel ≤ 255) (f : List Byte) :
    statusReply f pfx text s =
      emit (.replyOut (wireFrame 0x73 (replyDst s.config f) (pfx ++ statusBytes s ++ text))) s := by
  have hlen : (pfx ++ statusBytes s).length + text.length ≤ 253 := by
    rw [List.length_append, statusBytes_length]
    exact statusFields_length_le hc ht
  rw [statusReply, stateBytes_of_range hn h0 h1]
  exact sendReply_of_le hlen f s

theorem statusReply_of_out {s : State} (h : s.channel < 0 ∨ 255 < s.channel) (f pfx text : List Byte) :
    statusReply f pfx text s = s.faultedWith ⟨.channelOutOfRange, s.channel⟩ := by
  rw [statusReply, stateBytes_of_out h]
  exact raise_eq_faultedWith _ s

end Sys2Proof.Machine
end

section
/-! ER's kinds as operations (spec/42_responder.md R141 to R149): the frame that selects a kind performs it; the two
ends of the six status commands, with the channel they write; O26 to O34. -/

namespace Sys2Proof.Machine

theorem exec_kindInstr_of_kindOf {k : Kind} {f : List Byte} {s : State} (hr : s.Running) (hf : isFrame f = true)
    (hk : kindOf s.config f = k) : exec (kindInstr k f) s = .next (performKind k f s) := by
  subst hk
  rw [exec_kindInstr_of_selected hr hf, handle_eq_performKind]

/-- An addressed frame that carries a command of R77 performs that command's kind. -/
theorem exec_kindInstr_of_command {k : Kind} {f : List Byte} {s : State} (hr : s.Running)
    (hc : configOk s.config = true) (ha : AddressedFrame s.config f)
    (hk : (payload f, k) ∈ commandTable s.config) : exec (kindInstr k f) s = .next (performKind k f s) :=
  exec_kindInstr_of_kindOf hr ha.1 (by rw [kindOf_of_addressedFrame ha, commandKind_of_mem hc hk])

/-- A command that writes the channel `c` and then sends a status reply: the reply carries the new channel, and where
that has no one-byte encoding the write stands under the fault (R142 to R147, R150). -/
theorem exec_statusCommand {k : Kind} {f pfx text : List Byte} {s : State} {c : Int} (hr : s.Running)
    (hc : configOk s.config = true) (hn : s.NibbleState) (ha : AddressedFrame s.config f)
    (hk : (payload f, k) ∈ commandTable s.config) (ht : (pfx, text) ∈ statusFields s.config)
    (hperform : performKind k f s = statusReply f pfx text (setChannel c s)) :
    (0 ≤ c → c ≤ 255 → exec (kindInstr k f) s =
      .next (emit (.replyOut (wireFrame 0x73 (replyDst s.config f) (pfx ++ statusBytes (setChannel c s) ++ text)))
        (setChannel c s))) ∧
    (c < 0 ∨ 255 < c → exec (kindInstr k f) s =
      .next ((setChannel c s).faultedWith ⟨.channelOutOfRange, c⟩)) := by
  rw [exec_kindInstr_of_command hr hc ha hk, hperform]
  exact ⟨fun h0 h1 => congrArg _ (statusReply_of_range (s := setChannel c s) hc hn ht h0 h1 f),
    fun h => congrArg _ (statusReply_of_out (s := setChannel c s) h f pfx text)⟩

/-- `exec_statusCommand` for the kinds whose reply carries no text. -/
theorem exec_statusCommand_without_text {k : Kind} {f pfx : List Byte} {s : State} {c : Int} (hr : s.Running)
    (hc : configOk s.config = true) (hn : s.NibbleState) (ha : AddressedFrame s.config f)
    (hk : (payload f, k) ∈ commandTable s.config) (ht : (pfx, []) ∈ statusFields s.config)
    (hperform : performKind k f s = statusReply f pfx [] (setChannel c s)) :
    (0 ≤ c → c ≤ 255 → exec (kindInstr k f) s =
      .next (emit (.replyOut (wireFrame 0x73 (replyDst s.config f) (pfx ++ statusBytes (setChannel c s))))
        (setChannel c s))) ∧
    (c < 0 ∨ 255 < c → exec (kindInstr k f) s =
      .next ((setChannel c s).faultedWith ⟨.channelOutOfRange, c⟩)) := by
  have h := exec_statusCommand hr hc hn ha hk ht hperform
  rwa [List.append_nil] at h

/-- Settles O26: WF1 selects the row, WF3 makes the announce payload fit a frame, and the destination is read off
the two policies. -/
theorem pollSendsTheAnnounce : Obligations.PollSendsTheAnnounce := by
  refine ⟨fun s f hr hc ha hp => ?_, fun cfg f => ⟨?_, ?_⟩⟩
  · have hfits : s.config.announce.length ≤ 253 := (passes_wf3_iff _).1 ((configOk_iff _).1 hc .wf3)
    have hreply := sendReply_of_le (text := []) hfits f s
    rw [List.append_nil] at hreply
    have hpoll : exec (.poll f) s = .next (performPoll f s) :=
      exec_kindInstr_of_command (k := .poll) hr hc ha (by simp [commandTable, hp])
    rw [hpoll, performPoll, hreply]
    rfl
  · rintro hs b rest rfl
    simp only [replyDst, hs]
    rfl
  · intro b hb
    simp only [replyDst, hb]

/-- Settles O27: a status command that leaves the channel as it is. -/
theorem powerSendsTheStatus : Obligations.PowerSendsTheStatus := fun s _ hr hc hn ha hp =>
  exec_statusCommand_without_text (k := .power) (c := s.channel) hr hc hn ha (by simp [commandTable, hp])
    (by simp [statusFields]) rfl

/-- Settles O28: as POWER, with its own row of R77 and its own prefix. -/
theorem modeSendsTheStatus : Obligations.ModeSendsTheStatus := fun s _ hr hc hn ha hp =>
  exec_statusCommand_without_text (k := .mode) (c := s.channel) hr hc hn ha (by simp [commandTable, hp])
    (by simp [statusFields]) rfl

/-- Settles O29: a status command with a text, whose length WF4 counts in. -/
theorem nowSendsTheStatusAndText : Obligations.NowSendsTheStatusAndText := fun s _ hr hc hn ha hp =>
  exec_statusCommand (k := .now) (c := s.channel) hr hc hn ha (by simp [commandTable, hp]) (by simp [statusFields]) rfl

/-- Settles O30: a status command whose channel write comes before STATE(). -/
theorem chUpIncrementsThenAnswers : Obligations.ChUpIncrementsThenAnswers := fun s _ hr hc hn ha hp =>
  exec_statusCommand_without_text (k := .chUp) (c := s.channel + 1) hr hc hn ha (by simp [commandTable, hp])
    (by simp [statusFields]) rfl

/-- Settles O31: as CH_UP, with the decrement. -/
theorem chDownDecrementsThenAnswers : Obligations.ChDownDecrementsThenAnswers := fun s _ hr hc hn ha hp =>
  exec_statusCommand_without_text (k := .chDown) (c := s.channel - 1) hr hc hn ha (by simp [commandTable, hp])
    (by simp [statusFields]) rfl

/-- Settles O32: as NOW, with its own row of R77, prefix and text. -/
theorem satSendsTheStatusAndText : Obligations.SatSendsTheStatusAndText := fun s _ hr hc hn ha hp =>
  exec_statusCommand (k := .sat) (c := s.channel) hr hc hn ha (by simp [commandTable, hp]) (by simp [statusFields]) rfl

/-- Settles O33: no row of the command table matches, so the frame selects the last row of R77. -/
theorem unhandledIsReportedWithoutReply : Obligations.UnhandledIsReportedWithoutReply := by
  intro s f hr ha hp
  have hk : kindOf s.config f = .unhandled := by rw [kindOf_of_addressedFrame ha, commandKind_of_not_mem hp]
  exact exec_kindInstr_of_kindOf hr ha.1 hk

/-- Settles O34: either premise says that the frame is not one ER answers for, which is row 1 of R77. -/
theorem ignoreChangesNothing : Obligations.IgnoreChangesNothing := by
  intro s f hr hf h
  have hna : ¬ AddressedFrame s.config f := by
    rintro ⟨-, hlen, hdst⟩
    obtain h1 | ⟨hown, hbroadcast⟩ := h
    · omega
    · obtain hd | ⟨hacc, hd⟩ := hdst
      · exact hown hd
      · exact hbroadcast hacc hd
  exact exec_kindInstr_of_kindOf hr hf (kindOf_of_not_addressedFrame hf hna)

end Sys2Proof.Machine
end

section
/-! ENCODE as an operation (spec/43_encoder.md R170): the frame handed back, the raise beyond 253 payload bytes; O39. -/

namespace Sys2Proof.Machine

theorem encodeFrame_of_gt {cmd text : List Byte} (h : 253 < cmd.length + text.length) (src dst : Byte) :
    encodeFrame src dst cmd text = .error ⟨.encodeTooLong, ((cmd.length + text.length : Nat) : Int)⟩ := by
  obtain ⟨hshort, -⟩ | ⟨-, he⟩ := encodeFrame_cases src dst cmd text
  · omega
  · exact he

theorem exec_encode_of_ok {src dst : Byte} {cmd text r : List Byte} (h : encodeFrame src dst cmd text = .ok r)
    (s : State) : exec (.encode src dst cmd text) s = .next (answerWith (.frame r) s) := by
  change execEncode src dst cmd text s = _
  rw [execEncode, h]

/-- The raise is a write of the block, so it is `whenRunning` that decides it (log 12). -/
theorem exec_encode_of_error {src dst : Byte} {cmd text : List Byte} {e : FaultRecord}
    (h : encodeFrame src dst cmd text = .error e) (s : State) :
    exec (.encode src dst cmd text) s = whenRunning s (.next (raise e s)) := by
  change execEncode src dst cmd text s = _
  rw [execEncode, h]

/-- Settles O39: the two ends of `encodeFrame`, each carried through `exec`. -/
theorem encodeBuildsTheFrameOrFaults : Obligations.EncodeBuildsTheFrameOrFaults := by
  refine fun src dst cmd text => ⟨fun hshort => ?fits, fun hlong s hr => ?tooLong⟩
  case fits =>
    have hframe := encodeFrame_of_le hshort src dst
    exact ⟨hframe, fun s _ => ⟨_, exec_encode_of_ok hframe s, sameBlock_answerWith _ s⟩⟩
  case tooLong =>
    rw [exec_encode_of_error (encodeFrame_of_gt hlong src dst), whenRunning_of_running hr, raise_eq_faultedWith]

end Sys2Proof.Machine
end

section
/-! STOP as an operation (spec/60_exceptions.md R192), and the steps a stopped block does not take; O41. -/

namespace Sys2Proof.Machine

/-- STOP's own test is the guard of every step of the block but RESET (R185, log 9). -/
theorem exec_stop_eq (s : State) : exec .stop s = whenRunning s (.next (setStopped s)) := rfl

theorem not_running_of_stopped {s : State} (h : s.stopped = true) : ¬ s.Running := by
  rintro ⟨-, hrunning⟩
  exact absurd (h.symm.trans hrunning) (by decide)

theorem exec_fstep_of_not_running {s : State} (h : ¬ s.Running) : ∃ r, exec .fstep s = .refused r :=
  exec_fstep_of_frameStep_eq_none (frameStep_eq_none.2 (.inl h))

theorem exec_push_of_not_running {s : State} (h : ¬ s.Running) (b : Byte) : ∃ r, exec (.push b) s = .refused r := by
  refine exec_push_of_not_enabled (fun he => ?_) b
  obtain ⟨hr, -, -⟩ := (pushEnabled_iff s).1 he
  exact h hr

/-- Settles O41: where the block runs, the guard lets the one write `setStopped` through; a stopped block does not run,
so the guard refuses STOP, FSTEP and PUSH alike. -/
theorem stopSetsTheStopFlag : Obligations.StopSetsTheStopFlag := by
  refine fun s => ⟨fun hr => ?running, fun hn => ?halted, fun hs => ?stopped⟩
  case running =>
    rw [exec_stop_eq, whenRunning_of_running hr]
    rfl
  case halted =>
    rw [exec_stop_eq]
    exact whenRunning_of_not_running hn _
  case stopped =>
    have hn := not_running_of_stopped hs
    exact ⟨exec_fstep_of_not_running hn, exec_push_of_not_running hn⟩

end Sys2Proof.Machine
end

section
/-! RESET as an operation (spec/70_reset_and_hazards.md R200), and the named checks of R202 written out on the fields of
the configuration; O43 and O42. -/

namespace Sys2Proof.Machine

theorem exec_reset_of_configOk {cfg : Config} (h : configOk cfg = true) (s : State) :
    exec (.reset cfg) s = .next (loadConfig cfg s) := by
  have hnone : failedCheck cfg = none := Option.isNone_iff_eq_none.1 h
  change execReset cfg s = _
  rw [execReset, hnone]

/-- The refusal names the first check that fails (U13). -/
theorem exec_reset_of_not_configOk {cfg : Config} (h : ¬ configOk cfg = true) (s : State) :
    ∃ c, exec (.reset cfg) s = .refused (.illFormedConfig c) := by
  obtain ⟨c, hc⟩ : ∃ c, failedCheck cfg = some c :=
    Option.ne_none_iff_exists'.1 fun hn => h (Option.isNone_iff_eq_none.2 hn)
  refine ⟨c, ?_⟩
  change execReset cfg s = _
  rw [execReset, hc]

/-- WF2 field by field. -/
theorem passes_wf2_iff_fields (cfg : Config) :
    passes cfg .wf2 = true ↔
      cfg.cmdPoll.length ≤ 253 ∧ cfg.cmdPower.length ≤ 253 ∧ cfg.cmdMode.length ≤ 253 ∧ cfg.cmdNow.length ≤ 253 ∧
        cfg.cmdChUp.length ≤ 253 ∧ cfg.cmdChDown.length ≤ 253 ∧ cfg.cmdSat.length ≤ 253 := by
  simp [passes_wf2_iff, commandFields, Config.maxPayload]

/-- WF4 field by field: only NOW and SAT carry a text. -/
theorem passes_wf4_iff_fields (cfg : Config) :
    passes cfg .wf4 = true ↔
      cfg.pfxPower.length + 2 ≤ 253 ∧ cfg.pfxMode.length + 2 ≤ 253 ∧
        cfg.pfxNow.length + 2 + cfg.nowText.length ≤ 253 ∧ cfg.pfxChUp.length + 2 ≤ 253 ∧
        cfg.pfxChDown.length + 2 ≤ 253 ∧ cfg.pfxSat.length + 2 + cfg.satText.length ≤ 253 := by
  simp [passes_wf4_iff, statusFields, Config.maxPayload]

theorem configOk_iff_passes_each (cfg : Config) :
    configOk cfg = true ↔
      passes cfg .wf1 = true ∧ passes cfg .wf2 = true ∧ passes cfg .wf3 = true ∧ passes cfg .wf4 = true ∧
        passes cfg .wf5 = true ∧ passes cfg .wf6 = true := by
  rw [configOk_iff]
  constructor
  · exact fun h => ⟨h .wf1, h .wf2, h .wf3, h .wf4, h .wf5, h .wf6⟩
  · rintro ⟨h1, h2, h3, h4, h5, h6⟩ c
    cases c <;> assumption

/-- Settles O43: `configOk` is the conjunction of the checks, each check is its clause on the fields, and `configOk`
decides between the two ends of RESET. -/
theorem resetIsDefinedExactlyForWellFormedConfigs : Obligations.ResetIsDefinedExactlyForWellFormedConfigs := by
  intro cfg s wf1 wf2 wf3 wf4 wf5 wf6 ok
  have hwf1 : passes cfg .wf1 = true ↔ wf1 := passes_wf1_iff cfg
  have hwf2 : passes cfg .wf2 = true ↔ wf2 := passes_wf2_iff_fields cfg
  have hwf3 : passes cfg .wf3 = true ↔ wf3 := passes_wf3_iff cfg
  have hwf4 : passes cfg .wf4 = true ↔ wf4 := passes_wf4_iff_fields cfg
  have hwf5 : passes cfg .wf5 = true ↔ wf5 := passes_wf5_iff cfg
  have hwf6 : passes cfg .wf6 = true ↔ wf6 := passes_wf6_iff cfg
  have hok : configOk cfg = true ↔ ok := by
    rw [configOk_iff_passes_each, hwf1, hwf2, hwf3, hwf4, hwf5, hwf6]
  refine ⟨fun h => ⟨_, exec_reset_of_configOk (hok.2 h) s⟩, fun h => ?illFormed⟩
  case illFormed =>
    obtain ⟨c, hc⟩ := exec_reset_of_not_configOk (mt hok.1 h) s
    exact ⟨_, hc⟩

/-- RESET empties the buffer, and on an empty buffer PF waits (row 1 of R76). -/
theorem loadConfig_quiescent (cfg : Config) (s : State) : (loadConfig cfg s).Quiescent :=
  phase_short cfg (by simp)

/-- Settles O42: no guard stands before RESET, so its next state is `loadConfig` in every state. -/
theorem resetWritesEveryElement : Obligations.ResetWritesEveryElement := fun cfg s h =>
  ⟨loadConfig cfg s, exec_reset_of_configOk h s, loadConfig_config cfg s, loadConfig_buf cfg s,
    loadConfig_stopped cfg s, loadConfig_fault cfg s, loadConfig_channel cfg s, loadConfig_band cfg s,
    loadConfig_preset cfg s, loadConfig_trace cfg s, loadConfig_quiescent cfg s⟩

end Sys2Proof.Machine
end

section
/-! XCHK as one sum over the whole frame, and what a corrupted byte does to it (spec/40_checksum.md, derived); O4, O5
and O6. -/

namespace Sys2Proof.Machine

theorem xsum_concat_self (s : List Byte) : xsum (s ++ [xsum s]) = 0 := by
  rw [xsum_concat]
  exact BitVec.xor_self

/-- The XOR over a closed frame is zero exactly where its last byte is the XOR of the bytes before it. -/
theorem xchk_iff_xsum_eq_zero {f : List Byte} (h : lenByte f + 2 ≤ f.length) :
    xchk f = true ↔ xsum (f.take (lenByte f + 2)) = 0 := by
  have hlt : lenByte f + 1 < f.length := h
  have hlast : f.getD (lenByte f + 1) 0 = f[lenByte f + 1] := by simp [hlt]
  rw [xchk_iff, hlast, ← List.take_append_getElem hlt, xsum_concat]
  exact BitVec.xor_eq_zero_iff.symm

theorem xchk_iff_of_isFrame {f : List Byte} (h : isFrame f = true) : xchk f = true ↔ xsum f = 0 := by
  obtain ⟨-, hlen⟩ := (isFrame_iff f).1 h
  rw [xchk_iff_xsum_eq_zero hlen.ge, ← hlen, List.take_length]

/-- Overwriting one byte changes the sum by the XOR of the old byte and the new one. -/
theorem xsum_set {f : List Byte} {i : Nat} (h : i < f.length) (v : Byte) :
    xsum (f.set i v) = xsum f ^^^ (f.getD i 0 ^^^ v) := by
  induction f generalizing i with
  | nil => exact absurd h (Nat.not_lt_zero i)
  | cons b f ih =>
    cases i with
    | zero =>
      have hcancel : b ^^^ xsum f ^^^ (b ^^^ v) = v ^^^ xsum f := by
        rw [BitVec.xor_comm b (xsum f), BitVec.xor_assoc, ← BitVec.xor_assoc b b v, BitVec.xor_self,
          BitVec.zero_xor, BitVec.xor_comm]
      simp only [List.set_cons_zero, List.getD_cons_zero, xsum_cons, hcancel]
    | succ i =>
      simp only [List.set_cons_succ, List.getD_cons_succ, xsum_cons, ih (Nat.lt_of_succ_lt_succ h), BitVec.xor_assoc]

theorem lenByte_set {f : List Byte} {i : Nat} (h : i ≠ 1) (v : Byte) : lenByte (f.set i v) = lenByte f := by
  simp [lenByte, List.getElem?_set_ne h]

/-- A change outside the length byte leaves the shape of a frame. -/
theorem isFrame_set {f : List Byte} {i : Nat} (h : i ≠ 1) (v : Byte) : isFrame (f.set i v) = isFrame f := by
  rw [isFrame, isFrame, lenByte_set h, List.length_set]

theorem xsum_flip {f : List Byte} {i : Nat} (h : i < f.length) (m : Byte) :
    xsum (f.set i (f.getD i 0 ^^^ m)) = xsum f ^^^ m := by
  rw [xsum_set h, ← BitVec.xor_assoc (f.getD i 0), BitVec.xor_self, BitVec.zero_xor]

theorem bitMask_ne_zero {k : Nat} (h : k < 8) : 1#8 <<< k ≠ 0 := by
  interval_cases k <;> decide

theorem getD_set_of_ne {f : List Byte} {i j : Nat} (h : i ≠ j) (v : Byte) :
    (f.set i v).getD j 0 = f.getD j 0 := by
  simp [List.getD_eq_getElem?_getD, List.getElem?_set_ne h]

/-- Settles O4: all three are the splitting of the sum at an end of the list. -/
theorem xsumSplitsAndClosesToZero : Obligations.XsumSplitsAndClosesToZero :=
  ⟨xsum_append, xsum_concat_self, fun _ _ => xchk_iff_xsum_eq_zero⟩

/-- Settles O5: the flip moves the sum from zero to the mask of one bit, which is not zero. -/
theorem singleBitFlipIsDetected : Obligations.SingleBitFlipIsDetected := by
  intro f i k hf hx hi h1 hk
  have hsum : xsum (f.set i (f.getD i 0 ^^^ 1#8 <<< k)) = 1#8 <<< k := by
    rw [xsum_flip hi, (xchk_iff_of_isFrame hf).1 hx]
    exact BitVec.zero_xor
  rw [Bool.eq_false_iff, ne_eq, xchk_iff_of_isFrame (by rw [isFrame_set h1, hf]), hsum]
  exact bitMask_ne_zero hk

/-- Settles O6: the second change of the sum undoes the first. -/
theorem pairedFlipsAndSwapsAreNotDetected : Obligations.PairedFlipsAndSwapsAreNotDetected := by
  have xchk_of_sum {f : List Byte} {i j : Nat} {v w : Byte} (hf : isFrame f = true) (hx : xchk f = true) (hi : i ≠ 1)
      (hj : j ≠ 1) (hsum : xsum ((f.set i v).set j w) = xsum f) : xchk ((f.set i v).set j w) = true := by
    rw [xchk_iff_of_isFrame (by rw [isFrame_set hj, isFrame_set hi, hf]), hsum]
    exact (xchk_iff_of_isFrame hf).1 hx
  refine ⟨fun f i j k hf hx hi hj hij hi1 hj1 _ => xchk_of_sum hf hx hi1 hj1 ?flips,
    fun f i j hf hx hi hj hi1 hj1 => xchk_of_sum hf hx hi1 hj1 ?swap⟩
  case flips =>
    rw [← getD_set_of_ne hij (f.getD i 0 ^^^ 1#8 <<< k), xsum_flip (by simpa using hj), xsum_flip hi, BitVec.xor_assoc,
      BitVec.xor_self]
    exact BitVec.xor_zero
  case swap =>
    obtain ⟨-, hlen⟩ := (isFrame_iff f).1 hf
    have hi' : i < f.length := by omega
    have hj' : j < (f.set i (f.getD j 0)).length := by rw [List.length_set]; omega
    have hold : (f.set i (f.getD j 0)).getD j 0 = f.getD j 0 := by
      by_cases hij : i = j
      · subst hij; simp [hi']
      · exact getD_set_of_ne hij _
    rw [xsum_set hj', xsum_set hi', hold, BitVec.xor_assoc, BitVec.xor_comm (f.getD j 0) (f.getD i 0), BitVec.xor_self]
    exact BitVec.xor_zero

end Sys2Proof.Machine
end

section
/-! The fields of an encoded frame (spec/43_encoder.md, derived), and the values that the functions of CV and PE hand
back; O40 and O3. -/

namespace Sys2Proof.Machine

theorem wireFrame_length (src dst : Byte) (p : List Byte) : (wireFrame src dst p).length = p.length + 4 := by
  simp [wireFrame]

/-- Up to 253 payload bytes the length byte does not wrap (R71). -/
theorem lenByte_wireFrame {p : List Byte} (h : p.length ≤ 253) (src dst : Byte) :
    lenByte (wireFrame src dst p) = p.length + 2 := by
  rw [wireFrame, lenByte_cons, BitVec.toNat_ofNat]
  exact Nat.mod_eq_of_lt (by omega)

theorem isFrame_wireFrame {p : List Byte} (h : p.length ≤ 253) (src dst : Byte) :
    isFrame (wireFrame src dst p) = true := by
  rw [isFrame_iff, lenByte_wireFrame h, wireFrame_length]
  omega

theorem xchk_wireFrame {p : List Byte} (h : p.length ≤ 253) (src dst : Byte) :
    xchk (wireFrame src dst p) = true := by
  rw [xchk_iff_of_isFrame (isFrame_wireFrame h src dst), wireFrame_eq]
  exact xsum_concat_self _

theorem source_wireFrame (src dst : Byte) (p : List Byte) : source (wireFrame src dst p) = src := rfl

theorem destination_wireFrame (src dst : Byte) (p : List Byte) : destination (wireFrame src dst p) = dst := rfl

theorem payload_wireFrame {p : List Byte} (h : p.length ≤ 253) (src dst : Byte) :
    payload (wireFrame src dst p) = p := by
  rw [payload, lenByte_wireFrame h, wireFrame]
  simp

/-- What XCHK compares on a frame that passes it: the checksum field and the sum before it (R72, R101). -/
theorem checksum_eq_of_xchk {f : List Byte} (h : xchk f = true) : checksum f = xsum (f.take (lenByte f + 1)) :=
  ((xchk_iff f).1 h).symm

/-- ENCODE answers a frame only up to 253 payload bytes, and then it is the wire form. -/
theorem encodeFrame_eq_ok {src dst : Byte} {cmd text r : List Byte} (h : encodeFrame src dst cmd text = .ok r) :
    (cmd ++ text).length ≤ 253 ∧ r = wireFrame src dst (cmd ++ text) := by
  rw [List.length_append]
  by_cases hle : cmd.length + text.length ≤ 253
  · rw [encodeFrame_of_le hle] at h
    exact ⟨hle, (Except.ok.inj h).symm⟩
  · rw [encodeFrame_of_gt (by omega)] at h
    cases h

/-- Settles O40: the frame answered is the wire form, whose fields are read off. -/
theorem encodedFrameHasItsFieldsAndPassesXchk : Obligations.EncodedFrameHasItsFieldsAndPassesXchk := by
  intro src dst cmd text r h
  obtain ⟨hle, rfl⟩ := encodeFrame_eq_ok h
  have hx := xchk_wireFrame hle src dst
  exact ⟨isFrame_wireFrame hle src dst, hx, source_wireFrame src dst _, destination_wireFrame src dst _,
    payload_wireFrame hle src dst, by rw [lenByte_wireFrame hle, List.length_append], checksum_eq_of_xchk hx⟩

theorem xchkAnswer_of_defined {f : List Byte} (h2 : 2 ≤ f.length) (hl : lenByte f + 2 ≤ f.length) :
    xchkAnswer f = xchk f := if_pos ((xchkDefined_iff f).2 ⟨h2, hl⟩)

/-- Settles O3: each function's one write is `answerWith` of its value. -/
theorem functionsHandBackTheirValue : Obligations.FunctionsHandBackTheirValue := by
  refine ⟨exec_xsum, fun f s h2 hl => ?_, fun f s => ⟨_, exec_xchk f s⟩, fun src dst cmd text s h => ?_⟩
  · rw [exec_xchk, xchkAnswer_of_defined h2 hl]
    rfl
  · exact exec_encode_of_ok (encodeFrame_of_le h src dst) s

end Sys2Proof.Machine
end

section
/-! The two tables under later bytes, waits and unselected rows (spec/41_framer.md, spec/30_encoding.md R76, R77): O9,
O12, O17, O50 and O38. -/

namespace Sys2Proof.Machine

/-- A buffer on which PF acts holds two or more bytes, and a bad length, an unrecognized source, or a complete
candidate frame. -/
theorem not_awaiting_cases {cfg : Config} {buf : List Byte} (h : phase cfg buf ≠ .awaitingBytes) :
    ∃ a len rest, buf = a :: len :: rest ∧
      (BadLength cfg len ∨ recognized cfg a = false ∨ len.toNat ≤ rest.length) := by
  obtain hs | ⟨a, len, rest, rfl⟩ := buf_cases buf
  · exact absurd (phase_short cfg hs) h
  refine ⟨a, len, rest, rfl, ?_⟩
  by_contra hwait
  simp only [not_or, Nat.not_le] at hwait
  obtain ⟨hb, hd, hl⟩ := hwait
  refine h ((Action.phase_eq_awaitingBytes_iff _).2 (.inr ?_))
  rw [classify_cons, if_neg (not_or.2 hb), if_neg hd, if_pos hl]

/-- Settles O9: row 2 or 3 is decided by the first two bytes, and rows 5 and 6 by the bytes of the complete
candidate. -/
theorem actionIsStableUnderLaterBytes : Obligations.ActionIsStableUnderLaterBytes := by
  intro cfg buf more h
  obtain ⟨a, len, rest, rfl, hact⟩ := not_awaiting_cases h
  simp only [List.cons_append, classify_cons]
  by_cases hb : BadLength cfg len
  · rw [if_pos hb, if_pos hb]
  by_cases hd : recognized cfg a = false
  · rw [if_neg hb, if_neg hb, if_pos hd, if_pos hd]
  have hl : len.toNat ≤ rest.length := (hact.resolve_left hb).resolve_left hd
  have hl' : ¬ (rest ++ more).length < len.toNat := by rw [List.length_append]; omega
  have hx : xchk (a :: len :: (rest ++ more)) = xchk (a :: len :: rest) :=
    xchk_append (f := a :: len :: rest) (by simp) (by simpa [lenByte_cons] using hl) more
  rw [if_neg hb, if_neg hb, if_neg hd, if_neg hd, if_neg hl', if_neg (Nat.not_lt.2 hl), hx]

/-- A wait asked for where its row is selected answers the same state, and no FSTEP is enabled there. -/
theorem wait_changes_nothing {a : Action} {s : State} (ha : a = .waitShort ∨ a = .waitIncomplete)
    (hc : classify s.config s.buf = a) :
    exec (actionInstr a) s = .next s ∧ s.Quiescent ∧ ∃ r, exec .fstep s = .refused r := by
  have hq : s.Quiescent := (Action.phase_eq_awaitingBytes_iff _).2 (hc ▸ ha)
  have hwait : exec (actionInstr a) s = whenAction a s s := by
    obtain rfl | rfl := ha <;> rfl
  exact ⟨hwait.trans (whenAction_eq_next.2 ⟨hc, rfl⟩), hq,
    exec_fstep_of_frameStep_eq_none (frameStep_eq_none.2 (.inr hq))⟩

/-- Settles O12: the premises are the tests of rows 1 and 4. -/
theorem waitActionsChangeNothing : Obligations.WaitActionsChangeNothing := by
  refine ⟨fun s hs => wait_changes_nothing (.inl rfl) (classify_short s.config hs),
    fun s a len rest hb h0 h1 hdev hl => wait_changes_nothing (.inr rfl) ?_⟩
  have hdev' : ¬ recognized s.config a = false := by
    rw [recognized, hdev]
    exact Bool.noConfusion
  rw [hb, classify_cons, if_neg (not_badLength h0 h1), if_neg hdev', if_pos hl]

/-- Under the guard of a running block, what is refused stays refused. -/
theorem whenRunning_refused {o : Result} (h : ∃ r, o = .refused r) (s : State) :
    ∃ r, whenRunning s o = .refused r := by
  by_cases hr : s.Running
  · rwa [whenRunning_of_running hr]
  · exact whenRunning_of_not_running hr o

/-- Settles O17: every PF action tests its row by `whenAction`, every kind by `whenKind`. -/
theorem unselectedRowsAreRefused : Obligations.UnselectedRowsAreRefused := by
  refine ⟨fun s a h => ?_, fun s k f h => ?_⟩
  · have unselected (u : State) : ∃ r, whenAction a s u = .refused r := ⟨_, whenAction_of_ne u h⟩
    cases a with
    | waitShort => exact unselected s
    | waitIncomplete => exact unselected s
    | dropZeroLen => exact whenRunning_refused (unselected _) s
    | dropUnknownSrc => exact whenRunning_refused (unselected _) s
    | extract => exact whenRunning_refused (unselected _) s
    | dropBadChecksum => exact whenRunning_refused (unselected _) s
  · rw [exec_kindInstr_eq]
    exact whenKind_of_not _ h

/-- Settles O50: the bound holds of every waiting buffer, and row 4 of R76 is the only wait of two or more bytes. -/
theorem quiescentBufferIsShort : Obligations.QuiescentBufferIsShort := by
  intro s hq
  refine ⟨length_le_of_quiescent hq, fun h2 => ?_⟩
  obtain ⟨hshort, -, -, hincomplete, -, -⟩ := classifyFollowsTheActionTable s.config s.buf
  obtain hc | hc := (Action.phase_eq_awaitingBytes_iff _).1 hq
  · exact absurd (hshort.1 hc) (Nat.not_lt.2 h2)
  · obtain ⟨-, hlength, hsource, hmissing⟩ := hincomplete.1 hc
    exact ⟨Nat.pos_of_ne_zero fun h0 => hlength (.inl h0), hmissing, by simpa using hsource⟩

/-- Settles O38: the echo is a frame whose destination is the first sender, which is not one ER answers for. -/
theorem echoOfAReplyIsIgnored : Obligations.EchoOfAReplyIsIgnored := by
  intro cfg f p hdst hp hself hbroadcast
  have hf : isFrame (wireFrame 0x73 (replyDst cfg f) p) = true := isFrame_wireFrame hp _ _
  have hsender : replyDst cfg f = source f := by rw [replyDst, hdst]
  have hna : ¬ AddressedFrame cfg (wireFrame 0x73 (replyDst cfg f) p) := by
    rintro ⟨-, -, hd⟩
    rw [destination_wireFrame, hsender] at hd
    obtain hd | ⟨hacc, hd⟩ := hd
    · exact hself hd
    · exact hbroadcast hacc hd
  rw [decode_frame hf, kindOf_of_not_addressedFrame hf hna, kindInstr]

end Sys2Proof.Machine
end

section
/-! Decoding and encoding (spec/30_encoding.md R76, R77, R111): O56, O57 and O58; and the reset state: O51 and O52. -/

namespace Sys2Proof.Machine

/-- A code that the search finds has the wanted entry of `DEV` (R29). -/
theorem recognized_of_firstCodeFrom {cfg : Config} {bit : Bool} {n start : Nat} {c : Byte}
    (h : firstCodeFrom cfg bit n start = some c) : recognized cfg c = bit := by
  induction n generalizing start with
  | zero => cases h
  | succ n ih =>
    rw [firstCodeFrom] at h
    split at h
    · rename_i hbit
      cases h
      exact hbit
    · exact ih h

theorem recognized_of_firstCode {cfg : Config} {bit : Bool} {c : Byte} (h : firstCode cfg bit = some c) :
    recognized cfg c = bit := recognized_of_firstCodeFrom h

theorem decode_head {cfg : Config} {buf : List Byte} {a : Action} (h : classify cfg buf = a) :
    decode cfg .head buf = .ok (actionInstr a) := by
  rw [decode, h]

theorem two_not_badLength (cfg : Config) : ¬ BadLength cfg 2 :=
  not_badLength (by decide) fun h => absurd h (by decide)

theorem classify_unknownSrc {cfg : Config} {c : Byte} (hc : recognized cfg c = false) :
    classify cfg [c, 2] = .dropUnknownSrc := by
  rw [classify_cons, if_neg (two_not_badLength cfg), if_pos hc]

theorem classify_incomplete {cfg : Config} {c : Byte} (hc : recognized cfg c = true) :
    classify cfg [c, 2] = .waitIncomplete := by
  rw [classify_cons, if_neg (two_not_badLength cfg), if_neg (by simp [hc]), if_pos (by decide)]

/-- The shortest candidate frame with a recognized source and length byte 2: its checksum decides (rows 5 and 6). -/
theorem classify_candidate {cfg : Config} {c : Byte} (hc : recognized cfg c = true) (k : Byte) :
    classify cfg [c, 2, 0, k] = if xsum [c, 2, 0] = k then .extract else .dropBadChecksum := by
  rw [classify_complete (by decide) (fun h => absurd h (by decide)) hc (by simp)]
  exact if_congr (xchk_iff _) rfl rfl

theorem classify_sealed {cfg : Config} {c : Byte} (hc : recognized cfg c = true) :
    classify cfg (sealFrame [c, 2, 0]) = .extract :=
  (classify_candidate hc _).trans (if_pos rfl)

theorem classify_badChecksum {cfg : Config} {c : Byte} (hc : recognized cfg c = true) :
    classify cfg [c, 2, 0, xsum [c, 2, 0] ^^^ 1] = .dropBadChecksum := by
  have hne : xsum [c, 2, 0] ≠ xsum [c, 2, 0] ^^^ 1 := by
    generalize xsum [c, 2, 0] = x
    revert x
    decide
  rw [classify_candidate hc, if_neg hne]

theorem wellFormed_kindInstr (cfg : Config) (k : Kind) (f : List Byte) :
    wellFormed cfg (kindInstr k f) = validFrameOf cfg k f := by
  cases k <;> rfl

theorem encode_kindInstr (cfg : Config) (k : Kind) (f : List Byte) :
    encode cfg (kindInstr k f) = some (.frame, f) := by
  cases k <;> rfl

/-- A valid frame of a kind's row decodes to that kind on the frame. -/
theorem decode_encode_kindInstr {cfg : Config} {k : Kind} {f bytes : List Byte} {p : Port}
    (hw : wellFormed cfg (kindInstr k f) = true) (he : encode cfg (kindInstr k f) = some (p, bytes)) :
    decode cfg p bytes = .ok (kindInstr k f) := by
  rw [encode_kindInstr, Option.some.injEq, Prod.mk.injEq] at he
  obtain ⟨rfl, rfl⟩ := he
  simp only [wellFormed_kindInstr, validFrameOf, validFrame, Bool.and_eq_true, beq_iff_eq] at hw
  obtain ⟨⟨hf, -⟩, rfl⟩ := hw
  exact decode_frame hf

/-- An encoder that writes one buffer per code: decoding gives the action where every such buffer selects it. -/
theorem decode_of_firstCode {cfg : Config} {bit : Bool} {a : Action} {word : Byte → List Byte} {p : Port}
    {bytes : List Byte} (hword : ∀ c, recognized cfg c = bit → classify cfg (word c) = a)
    (he : (firstCode cfg bit).map (fun c => (Port.head, word c)) = some (p, bytes)) :
    decode cfg p bytes = .ok (actionInstr a) := by
  obtain ⟨c, hc, heq⟩ := Option.map_eq_some_iff.1 he
  cases heq
  exact decode_head (hword c (recognized_of_firstCode hc))

/-- Settles O56: a PUSH is its byte, the word of a PF action selects its row, and an ER kind is read off its frame. -/
theorem decodeInvertsEncode : Obligations.DecodeInvertsEncode := by
  intro cfg i p bytes hw he
  cases i with
  | push b => cases he; rfl
  | waitShort => cases he; rfl
  | dropZeroLen => cases he; rfl
  | dropUnknownSrc => exact decode_of_firstCode (fun _ => classify_unknownSrc) he
  | waitIncomplete => exact decode_of_firstCode (fun _ => classify_incomplete) he
  | extract => exact decode_of_firstCode (fun _ => classify_sealed) he
  | dropBadChecksum => exact decode_of_firstCode (fun _ => classify_badChecksum) he
  | poll f => exact decode_encode_kindInstr (k := .poll) hw he
  | power f => exact decode_encode_kindInstr (k := .power) hw he
  | mode f => exact decode_encode_kindInstr (k := .mode) hw he
  | now f => exact decode_encode_kindInstr (k := .now) hw he
  | chUp f => exact decode_encode_kindInstr (k := .chUp) hw he
  | chDown f => exact decode_encode_kindInstr (k := .chDown) hw he
  | sat f => exact decode_encode_kindInstr (k := .sat) hw he
  | unhandled f => exact decode_encode_kindInstr (k := .unhandled) hw he
  | ignore f => exact decode_encode_kindInstr (k := .ignore) hw he
  | xsum _ => cases he
  | xchk _ => cases he
  | fstep => cases he
  | feed _ => cases he
  | encode _ _ _ _ => cases he
  | stop => cases he
  | reset _ => cases he

/-- Well-formedness of the four PF actions with a code is that the encoder finds one. -/
theorem isSome_encode_eq {cfg : Config} {i : Instr} (h : wellFormed cfg i = true) :
    (encode cfg i).isSome = !hasNoEncoding i := by
  cases i with
  | dropUnknownSrc => exact Option.isSome_map.trans h
  | waitIncomplete => exact Option.isSome_map.trans h
  | extract => exact Option.isSome_map.trans h
  | dropBadChecksum => exact Option.isSome_map.trans h
  | _ => rfl

/-- Settles O57: the encoder answers a word exactly for the rows that have one. -/
theorem everyEncodableOperationHasAWord : Obligations.EveryEncodableOperationHasAWord := by
  intro cfg i h
  rw [← Prod.exists', ← Option.isSome_iff_exists, isSome_encode_eq h, Bool.not_eq_true']

/-- Settles O58: closed words under the example configuration, evaluated. -/
theorem specWordsDecode : Obligations.SpecWordsDecode := by
  refine ⟨by decide, by decide, by decide, by decide, by decide, by decide, by decide, by decide⟩

/-- Settles O51: the fields of one closed state, and an empty buffer waits. -/
theorem resetStateHoldsItsValues : Obligations.ResetStateHoldsItsValues := by
  have hq : State.reset.Quiescent := phase_short _ (by decide)
  exact ⟨rfl, rfl, rfl, rfl, hq, rfl, rfl, rfl, rfl, rfl, rfl, rfl, rfl, rfl, hq, rfl, rfl⟩

/-- Settles O52: the example configuration passes R202, and nothing has arrived or been emitted. -/
theorem resetSatisfiesTheInvariant : Obligations.ResetSatisfiesTheInvariant where
  config_ok := by decide
  band_reset := rfl
  preset_reset := rfl
  buf_bound := Nat.zero_le _
  events_ok := fun _ h => nomatch h
  faults_recorded := rfl

end Sys2Proof.Machine
end

section
/-! What the machine keeps while it emits (spec/10_state.md R22 to R36): one relation between a state and what PF, ER
and FEED make of it, and O44 to O49. -/

namespace Sys2Proof.Machine

/-! ### The relation -/

/-- `t` continues `s` with the events `evs`: nothing but the buffer, the channel, the line, the trace and the fault
register differs, the trace grows by `evs`, each of them as `EventOk` says, and the fault register takes exactly the
faults that `evs` report. -/
structure Emits (evs : List Event) (s t : State) : Prop where
  config : t.config = s.config
  stopped : t.stopped = s.stopped
  band : t.band = s.band
  preset : t.preset = s.preset
  answer : t.answer = s.answer
  feeding : t.feeding = s.feeding
  requests : t.requests = s.requests
  signals : t.signals = s.signals
  trace : t.trace = s.trace ++ evs
  events_ok : ∀ e ∈ evs, EventOk s.config e
  faults : t.fault.toList = s.fault.toList ++ evs.filterMap raisedBy

theorem Emits.refl (s : State) : Emits [] s s :=
  ⟨rfl, rfl, rfl, rfl, rfl, rfl, rfl, rfl, (List.append_nil _).symm, nofun, (List.append_nil _).symm⟩

theorem Emits.trans {es fs : List Event} {s t u : State} (h : Emits es s t) (g : Emits fs t u) :
    Emits (es ++ fs) s u where
  config := g.config.trans h.config
  stopped := g.stopped.trans h.stopped
  band := g.band.trans h.band
  preset := g.preset.trans h.preset
  answer := g.answer.trans h.answer
  feeding := g.feeding.trans h.feeding
  requests := g.requests.trans h.requests
  signals := g.signals.trans h.signals
  trace := by rw [g.trace, h.trace, List.append_assoc]
  events_ok e he := (List.mem_append.1 he).elim (h.events_ok e) fun hf => h.config ▸ g.events_ok e hf
  faults := by rw [g.faults, h.faults, List.append_assoc, ← List.filterMap_append]

/-- One event that reports no fault. -/
theorem Emits.emit {e : Event} {s : State} (he : EventOk s.config e) (hr : raisedBy e = none) :
    Emits [e] s (emit e s) :=
  ⟨rfl, rfl, rfl, rfl, rfl, rfl, rfl, rfl, rfl, fun _ h => List.mem_singleton.1 h ▸ he, by simp [hr]⟩

theorem Emits.raise {s : State} (h : s.fault = none) (r : FaultRecord) : Emits [.faultRaised r] s (raise r s) :=
  ⟨rfl, rfl, rfl, rfl, rfl, rfl, rfl, rfl, rfl, fun _ h => List.mem_singleton.1 h ▸ trivial, by simp [h, raisedBy]⟩

theorem Emits.setChannel (c : Int) (s : State) : Emits [] s (setChannel c s) := { Emits.refl s with }

theorem Emits.bufPush (b : Byte) (s : State) : Emits [] s (bufPush b s) := { Emits.refl s with }

theorem Emits.bufDropFront (n : Nat) (s : State) : Emits [] s (bufDropFront n s) := { Emits.refl s with }

theorem Emits.holdOnLine (bs : List Byte) (s : State) : Emits [] s (holdOnLine bs s) := { Emits.refl s with }

theorem Emits.takeLine (s : State) : Emits [] s (takeLine s) := { Emits.refl s with }

/-! ### ER -/

/-- Every reply is an encoded frame from 0x73 (R151, R172). -/
theorem eventOk_replyOut {cfg : Config} {dst : Byte} {cmd text r : List Byte}
    (h : encodeFrame Config.emuAddr dst cmd text = .ok r) : EventOk cfg (.replyOut r) := by
  obtain ⟨hle, rfl⟩ := encodeFrame_eq_ok h
  exact ⟨isFrame_wireFrame hle _ _, by rw [lenByte_wireFrame hle]; omega, source_wireFrame _ _ _,
    xchk_wireFrame hle _ _⟩

/-- Row 1 of R77 read backwards. -/
theorem addressedFrame_of_kindOf_ne_ignore {cfg : Config} {f : List Byte} (hf : isFrame f = true)
    (h : kindOf cfg f ≠ .ignore) : AddressedFrame cfg f :=
  by_contra fun hna => h (kindOf_of_not_addressedFrame hf hna)

@[simp] theorem handle_line (f : List Byte) (s : State) : (handle f s).line = s.line :=
  handle_induct (P := fun t => t.line = s.line) (fun _ => rfl) (fun _ _ _ _ _ => rfl) (fun _ _ => rfl) fun _ _ => rfl

/-- ER emits no event that belongs to FEED's result (R119). -/
theorem handle_emits {f : List Byte} {s : State} (hf : isFrame f = true) (h : s.fault = none) :
    ∃ evs, Emits evs s (handle f s) ∧ ∀ e ∈ evs, isFeedResult e = false := by
  have one (c : Int) {e : Event} {t : State} (ht : Emits [e] (setChannel c s) t) (he : isFeedResult e = false) :
      ∃ evs, Emits evs s t ∧ ∀ e ∈ evs, isFeedResult e = false :=
    ⟨[e], (Emits.setChannel c s).trans ht, fun _ h => List.mem_singleton.1 h ▸ he⟩
  refine handle_induct (P := fun t => ∃ evs, Emits evs s t ∧ ∀ e ∈ evs, isFeedResult e = false)
    (fun c => ⟨[], Emits.setChannel c s, fun _ h => absurd h List.not_mem_nil⟩) (fun c cmd text r hr => ?reply)
    (fun c hk => ?unhandled) fun c e => ?fault
  case reply => exact one c (.emit (eventOk_replyOut hr) rfl) rfl
  case unhandled => exact one c (.emit (addressedFrame_of_kindOf_ne_ignore hf (by simp [hk])) rfl) rfl
  case fault => exact one c (.raise (s := setChannel c s) h e) rfl

theorem consumedBy_of_not_feedResult {e : Event} (h : isFeedResult e = false) : consumedBy e = [] := by
  cases e with
  | packetOut f => cases h
  | dropped b c => cases h
  | replyOut r => rfl
  | unhandled f => rfl
  | faultRaised r => rfl

theorem consumed_of_no_feedResult {evs : List Event} (h : ∀ e ∈ evs, isFeedResult e = false) : consumed evs = [] :=
  List.flatMap_eq_nil_iff.2 fun e he => consumedBy_of_not_feedResult (h e he)

theorem consumed_append (es fs : List Event) : consumed (es ++ fs) = consumed es ++ consumed fs := List.flatMap_append

/-! ### PF and FEED -/

theorem frameStep_line {s t : State} (h : frameStep s = some t) : t.line = s.line := by
  obtain ⟨-, -, ⟨a, len, rest, c, -, rfl⟩ | ⟨f, rest, -, -, -, -, -, rfl⟩⟩ := frameStep_cases h
  · rfl
  · exact handle_line f _

/-- The events of an FSTEP account for the bytes that leave the buffer (R125). -/
theorem frameStep_emits {s t : State} (h : frameStep s = some t) :
    ∃ evs, Emits evs s t ∧ consumed evs ++ t.buf = s.buf := by
  obtain ⟨⟨hfault, -⟩, -, ⟨a, len, rest, c, hb, rfl⟩ | ⟨f, rest, hb, hf, hx, -, -, rfl⟩⟩ := frameStep_cases h
  · have hdrop : Emits [.dropped a c] (bufDropFront 1 s) (emit (.dropped a c) (bufDropFront 1 s)) :=
      .emit trivial rfl
    exact ⟨_, (Emits.bufDropFront 1 s).trans hdrop, by simp [hb, consumed, consumedBy]⟩
  · have hreport : Emits [.packetOut f] (bufDropFront f.length s) (emit (.packetOut f) (bufDropFront f.length s)) :=
      .emit ⟨hf, hx⟩ rfl
    obtain ⟨evs, hevs, hquiet⟩ :=
      handle_emits (s := emit (.packetOut f) (bufDropFront f.length s)) hf hfault
    refine ⟨_, (Emits.bufDropFront _ s).trans (hreport.trans hevs), ?_⟩
    rw [List.nil_append, consumed_append, consumed_of_no_feedResult hquiet]
    simp [hb, consumed, consumedBy]

theorem runToQuiescence_emits (s : State) : ∃ evs, Emits evs s (runToQuiescence s) := by
  refine settle_induct (P := fun t => ∃ evs, Emits evs s t) ?_ _ s ⟨[], .refl s⟩
  rintro t u ⟨evs, ht⟩ hu
  obtain ⟨more, hmore, -⟩ := frameStep_emits hu
  exact ⟨_, ht.trans hmore⟩

theorem feedBytes_emits (bs : List Byte) (s : State) : ∃ evs, Emits evs s (feedBytes bs s) := by
  refine feedBytes_induct (P := fun t => ∃ evs, Emits evs s t) ?step ?push ?hold bs s ⟨[], .refl s⟩
  case step =>
    rintro t u ⟨evs, ht⟩ hu
    obtain ⟨more, hmore, -⟩ := frameStep_emits hu
    exact ⟨_, ht.trans hmore⟩
  case push =>
    rintro b t ⟨evs, ht⟩ -
    exact ⟨_, ht.trans (.bufPush b t)⟩
  case hold =>
    rintro rest t ⟨evs, ht⟩
    exact ⟨_, ht.trans (.holdOnLine rest t)⟩

/-! ### Every operation -/

/-- The operations that hand a value back to their caller (log 3). -/
def HandsBack (i : Instr) : Prop :=
  (∃ bs, i = .feed bs) ∨ (∃ bs, i = .xsum bs) ∨ (∃ f, i = .xchk f) ∨ ∃ src dst cmd text, i = .encode src dst cmd text

/-- `t` continues `s` under an operation that is not RESET; then a function hands its value back, and STOP sets the
stop flag. Only FEED moves the line. -/
def Continues (i : Instr) (s t : State) : Prop :=
  ∃ u evs, Emits evs s u ∧ ((∀ bs, i ≠ .feed bs) → u.line = s.line) ∧
    (t = u ∨ (HandsBack i ∧ ∃ a, t = answerWith a u) ∨ (i = .stop ∧ t = setStopped u))

/-- Everything an operation keeps, said once: RESET loads its configuration, and any other operation continues the
state. -/
theorem exec_cases {i : Instr} {s t : State} (h : exec i s = .next t) :
    (∃ cfg, i = .reset cfg ∧ configOk cfg = true ∧ t = loadConfig cfg s) ∨ Continues i s t := by
  have continues {u : State} {evs : List Event} (hu : Emits evs s u) (hl : u.line = s.line) : Continues i s u :=
    ⟨u, evs, hu, fun _ => hl, .inl rfl⟩
  have answers (hi : HandsBack i) (a : Answer) : Continues i s (answerWith a s) :=
    ⟨s, [], .refl s, fun _ => rfl, .inr (.inl ⟨hi, a, rfl⟩)⟩
  cases exec_effect h with
  | xsum bs hi => exact .inr (answers (.inr (.inl ⟨bs, hi⟩)) _)
  | xchk f hi => exact .inr (answers (.inr (.inr (.inl ⟨f, hi⟩))) _)
  | encode src dst cmd text r hi => exact .inr (answers (.inr (.inr (.inr ⟨src, dst, cmd, text, hi⟩))) _)
  | encodeFault src dst cmd text e hi he hr => exact .inr (continues (.raise hr.1 e) rfl)
  | wait hi hq => exact .inr (continues (.refl s) rfl)
  | push b hi he => exact .inr (continues (.bufPush b s) rfl)
  | fstep t hi hs =>
    obtain ⟨evs, hevs, -⟩ := frameStep_emits hs
    exact .inr (continues hevs (frameStep_line hs))
  | drop c hi hs =>
    obtain ⟨evs, hevs, -⟩ := frameStep_emits hs
    exact .inr (continues hevs (frameStep_line hs))
  | feedNothing hi => exact .inr (answers (.inl ⟨_, hi⟩) _)
  | feed bs hi hne =>
    obtain ⟨evs, hevs⟩ := feedBytes_emits (s.line ++ bs) (takeLine s)
    have hback : HandsBack i := .inl ⟨bs, hi⟩
    exact .inr ⟨_, _, (Emits.takeLine s).trans hevs, fun hn => absurd hi (hn bs), .inr (.inl ⟨hback, _, rfl⟩)⟩
  | kind k f hi hr hf hk =>
    obtain ⟨evs, hevs, -⟩ := handle_emits hf hr.1
    exact .inr (continues hevs (handle_line f s))
  | stop hi hr => exact .inr ⟨s, [], .refl s, fun _ => rfl, .inr (.inr ⟨hi, rfl⟩)⟩
  | reset cfg hi hc => exact .inl ⟨cfg, hi, hc, rfl⟩

/-- Settles O46: what `Emits` keeps, an answer and the stop flag leave. -/
theorem onlyResetWritesConfigBandAndPreset : Obligations.OnlyResetWritesConfigBandAndPreset := by
  intro i s t hi h
  obtain ⟨cfg, rfl, -⟩ | ⟨u, evs, hu, -, rfl | ⟨-, a, rfl⟩ | ⟨-, rfl⟩⟩ := exec_cases h
  · exact absurd rfl (hi cfg)
  · exact ⟨hu.config, hu.band, hu.preset, evs, hu.trace⟩
  · exact ⟨hu.config, hu.band, hu.preset, evs, hu.trace⟩
  · exact ⟨hu.config, hu.band, hu.preset, evs, hu.trace⟩

/-- Settles O48: RESET leaves the host's fields, `Emits` keeps four of them, and only FEED's states differ in the
line. -/
theorem modelFieldsHaveNamedWriters : Obligations.ModelFieldsHaveNamedWriters := by
  intro i s t h
  obtain ⟨cfg, -, -, rfl⟩ | ⟨u, evs, hu, hline, rfl | ⟨hback, a, rfl⟩ | ⟨-, rfl⟩⟩ := exec_cases h
  · exact ⟨rfl, rfl, rfl, fun _ => rfl, fun _ _ _ _ => rfl⟩
  · exact ⟨hu.requests, hu.signals, hu.feeding, hline, fun _ _ _ _ => hu.answer⟩
  · refine ⟨hu.requests, hu.signals, hu.feeding, hline, fun hfeed hxsum hxchk hencode => ?_⟩
    obtain ⟨bs, hi⟩ | ⟨bs, hi⟩ | ⟨f, hi⟩ | ⟨src, dst, cmd, text, hi⟩ := hback
    · exact absurd hi (hfeed bs)
    · exact absurd hi (hxsum bs)
    · exact absurd hi (hxchk f)
    · exact absurd hi (hencode src dst cmd text)
  · exact ⟨hu.requests, hu.signals, hu.feeding, hline, fun _ _ _ _ => hu.answer⟩

/-- Where every event of the new part is as it should be, the trace of the new state holds the old events and good
ones. -/
theorem Emits.packetOut_ok {evs : List Event} {s u : State} (h : Emits evs s u)
    (hs : ∀ f, Event.packetOut f ∈ s.trace → isFrame f = true ∧ xchk f = true) {f : List Byte}
    (hf : Event.packetOut f ∈ u.trace) : isFrame f = true ∧ xchk f = true := by
  rw [h.trace, List.mem_append] at hf
  exact hf.elim (hs f) (h.events_ok _)

/-- Settles O49: `EventOk` of a PacketOut is R103. -/
theorem everyReportedFramePassesXchk : Obligations.EveryReportedFramePassesXchk := by
  intro i s t h hs f hf
  obtain ⟨cfg, -, -, rfl⟩ | ⟨u, evs, hu, -, rfl | ⟨-, a, rfl⟩ | ⟨-, rfl⟩⟩ := exec_cases h
  · exact nomatch hf
  · exact hu.packetOut_ok hs hf
  · exact hu.packetOut_ok hs hf
  · exact hu.packetOut_ok hs hf

/-! ### The channel -/

/-- By how much a kind moves the channel (R145, R146). -/
def channelMove : Kind → Int
  | .chUp => 1
  | .chDown => -1
  | .ignore => 0
  | .poll => 0
  | .power => 0
  | .mode => 0
  | .now => 0
  | .sat => 0
  | .unhandled => 0

@[simp] theorem sendReply_channel (f cmd text : List Byte) (s : State) :
    (sendReply f cmd text s).channel = s.channel := by
  obtain ⟨r, -, h⟩ | ⟨e, -, h⟩ := sendReply_cases f cmd text s <;> rw [h]
  · rfl
  · rfl

@[simp] theorem statusReply_channel (f pfx text : List Byte) (s : State) :
    (statusReply f pfx text s).channel = s.channel := by
  rw [statusReply]
  cases stateBytes s with
  | ok st => exact sendReply_channel f _ text s
  | error e => rfl

theorem performKind_channel (k : Kind) (f : List Byte) (s : State) :
    (performKind k f s).channel = s.channel + channelMove k := by
  cases k with
  | ignore => exact (Int.add_zero _).symm
  | poll => exact (sendReply_channel ..).trans (Int.add_zero _).symm
  | power => exact (statusReply_channel ..).trans (Int.add_zero _).symm
  | mode => exact (statusReply_channel ..).trans (Int.add_zero _).symm
  | now => exact (statusReply_channel ..).trans (Int.add_zero _).symm
  | chUp => exact statusReply_channel ..
  | chDown => exact statusReply_channel ..
  | sat => exact (statusReply_channel ..).trans (Int.add_zero _).symm
  | unhandled => exact (Int.add_zero _).symm

theorem handle_channel (f : List Byte) (s : State) :
    (handle f s).channel = s.channel + channelMove (kindOf s.config f) := by
  rw [handle_eq_performKind, performKind_channel]

theorem channelMove_eq_zero {k : Kind} (hup : k ≠ .chUp) (hdown : k ≠ .chDown) : channelMove k = 0 := by
  cases k with
  | chUp => exact absurd rfl hup
  | chDown => exact absurd rfl hdown
  | _ => rfl

/-- Settles O47: of the effects that write the buffer or the channel, each is one of an excepted operation. -/
theorem onlyTheNamedWritersWrite : Obligations.OnlyTheNamedWritersWrite := by
  intro i s t hi h
  refine ⟨fun hpush hfeed hfstep hextract hzero hsrc hsum => ?buffer,
    fun hup hdown hfeed hfstep hextract => ?channel, fun hstop => ?stopped⟩
  case buffer =>
    cases exec_effect h with
    | xsum => rfl
    | xchk => rfl
    | encode => rfl
    | encodeFault => rfl
    | wait => rfl
    | push b he => exact absurd he (hpush b)
    | fstep t he => exact (he.elim hfstep hextract).elim
    | drop c he => exact (he.elim hzero fun he => he.elim hsrc hsum).elim
    | feedNothing => rfl
    | feed bs he => exact absurd he (hfeed bs)
    | kind k f => exact handle_buf f s
    | stop => rfl
    | reset cfg he => exact absurd he (hi cfg)
  case channel =>
    cases exec_effect h with
    | xsum => rfl
    | xchk => rfl
    | encode => rfl
    | encodeFault => rfl
    | wait => rfl
    | push => rfl
    | fstep t he => exact (he.elim hfstep hextract).elim
    | drop => rfl
    | feedNothing => rfl
    | feed bs he => exact absurd he (hfeed bs)
    | kind k f he hr hf hk =>
      have hk0 : channelMove k = 0 := by
        refine channelMove_eq_zero ?_ ?_
        · rintro rfl; exact hup f he
        · rintro rfl; exact hdown f he
      rw [handle_channel, hk, hk0, Int.add_zero]
    | stop => rfl
    | reset cfg he => exact absurd he (hi cfg)
  case stopped =>
    obtain ⟨cfg, rfl, -⟩ | ⟨u, evs, hu, -, rfl | ⟨-, a, rfl⟩ | ⟨he, -⟩⟩ := exec_cases h
    · exact absurd rfl (hi cfg)
    · exact hu.stopped
    · exact hu.stopped
    · exact absurd he hstop

/-! ### Halted blocks -/

theorem sameBlock_refl (s : State) : s.SameBlock s := ⟨rfl, rfl, rfl, rfl, rfl, rfl, rfl, rfl⟩

theorem runToQuiescence_of_frameStep_eq_none {s : State} (h : frameStep s = none) : runToQuiescence s = s := by
  rw [runToQuiescence]
  cases s.buf.length with
  | zero => rfl
  | succ n => rw [settle, h]

theorem running_of_pushEnabled {s : State} (h : pushEnabled s = true) : s.Running := ((pushEnabled_iff s).1 h).1

theorem quiescent_of_pushEnabled {s : State} (h : pushEnabled s = true) : s.Quiescent := by
  obtain ⟨-, hq, -⟩ := (pushEnabled_iff s).1 h
  exact hq

/-- Where PF takes no step and takes no byte, FEED leaves every byte with the host (R203). -/
theorem feedBytes_of_blocked {s : State} (hs : frameStep s = none) (hp : ¬ pushEnabled s = true) (bs : List Byte) :
    feedBytes bs s = holdOnLine bs s := by
  cases bs with
  | nil => simp [feedBytes, holdOnLine]
  | cons b bs => rw [feedBytes, runToQuiescence_of_frameStep_eq_none hs, if_neg hp]

theorem feedBytes_of_halted {s : State} (h : ¬ s.Running) (bs : List Byte) : feedBytes bs s = holdOnLine bs s :=
  feedBytes_of_blocked (frameStep_eq_none.2 (.inl h)) (fun hp => h (running_of_pushEnabled hp)) bs

/-- Settles O45: an operation that a halted block answers waits, or writes fields of the host alone. -/
theorem haltedBlockKeepsAllState : Obligations.HaltedBlockKeepsAllState := by
  intro i s t hi hn h
  cases exec_effect h with
  | xsum => exact sameBlock_refl s
  | xchk => exact sameBlock_refl s
  | encode => exact sameBlock_refl s
  | encodeFault _ _ _ _ _ _ _ hr => exact absurd hr hn
  | wait => exact sameBlock_refl s
  | push b he hp => exact absurd (running_of_pushEnabled hp) hn
  | fstep t he hs => exact absurd (frameStep_cases hs).1 hn
  | drop c he hs => exact absurd (frameStep_cases hs).1 hn
  | feedNothing => exact sameBlock_refl s
  | feed bs =>
    rw [feedBytes_of_halted (s := takeLine s) hn]
    exact sameBlock_refl s
  | kind k f he hr => exact absurd hr hn
  | stop he hr => exact absurd hr hn
  | reset cfg he => exact absurd he (hi cfg)

/-- Settles O44: a faulted or stopped block is halted, so the operation keeps it; STOP writes nothing that a normal end
speaks of. -/
theorem faultAndStopFlagAreSticky : Obligations.FaultAndStopFlagAreSticky := by
  intro i s t hi h
  have keeps (hn : ¬ s.Running) : t.SameBlock s := haltedBlockKeepsAllState i s t hi hn h
  have fault_kept (hf : s.fault ≠ none) : t.fault = s.fault := by
    obtain ⟨-, -, -, hfault, -⟩ := keeps fun hr => hf hr.1
    exact hfault
  refine ⟨fun r hf => ?_, fun hs => ?_, fun hf hend => ?_, ?_⟩
  · rw [fault_kept (by simp [hf]), hf]
  · obtain ⟨-, -, hstopped, -⟩ := keeps (not_running_of_stopped hs)
    rw [hstopped, hs]
  · obtain ⟨-, hnone, -⟩ := hend
    exact hf (by rw [← fault_kept hf, hnone])
  · rintro rfl hend
    obtain ⟨-, ht⟩ := whenRunning_eq_next.1 ((exec_stop_eq s).symm.trans h)
    cases ht
    exact hend

end Sys2Proof.Machine
end

section
/-! The block does not read the host's fields (spec/10_state.md R20): a write of the host's fields commutes with every
step of PF and with FEED (log 3, log 4, log 14). -/

namespace Sys2Proof.Machine

/-- The block of `s` with the host's fields of `h`. -/
def withHost (h s : State) : State :=
  { s with answer := h.answer, line := h.line, feeding := h.feeding, requests := h.requests, signals := h.signals }

/-- A function that writes the host's fields alone, and from the host's fields alone. -/
def HostWrite (g : State → State) : Prop := ∀ s t, g (withHost s t) = withHost (g s) t

/-- The registers of `s`, which ER works on, with the buffer and the host's fields of `h`. -/
def registersOf (s h : State) : State := withHost h { s with buf := h.buf }

/-- A function that leaves the registers of ER, and does not read them. -/
def BesideRegisters (g : State → State) : Prop := ∀ s t, g (registersOf t s) = registersOf t (g s)

theorem sendReply_registersOf (h : State) (f cmd text : List Byte) (s : State) :
    sendReply f cmd text (registersOf s h) = registersOf (sendReply f cmd text s) h := by
  have hcfg : (registersOf s h).config = s.config := rfl
  rw [sendReply, sendReply, hcfg]
  cases encodeFrame Config.emuAddr (replyDst s.config f) cmd text <;> rfl

theorem statusReply_registersOf (h : State) (f pfx text : List Byte) (s : State) :
    statusReply f pfx text (registersOf s h) = registersOf (statusReply f pfx text s) h := by
  have hst : stateBytes (registersOf s h) = stateBytes s := rfl
  rw [statusReply, statusReply, hst]
  cases stateBytes s with
  | ok st => exact sendReply_registersOf h f _ text s
  | error e => rfl

theorem performKind_registersOf (h : State) (k : Kind) (f : List Byte) (s : State) :
    performKind k f (registersOf s h) = registersOf (performKind k f s) h := by
  cases k with
  | ignore => rfl
  | poll => exact sendReply_registersOf ..
  | power => exact statusReply_registersOf ..
  | mode => exact statusReply_registersOf ..
  | now => exact statusReply_registersOf ..
  | chUp => exact statusReply_registersOf h f _ _ (setChannel (s.channel + 1) s)
  | chDown => exact statusReply_registersOf h f _ _ (setChannel (s.channel - 1) s)
  | sat => exact statusReply_registersOf ..
  | unhandled => rfl

theorem handle_registersOf (h : State) (f : List Byte) (s : State) :
    handle f (registersOf s h) = registersOf (handle f s) h := by
  rw [handle_eq_performKind, handle_eq_performKind]
  exact performKind_registersOf h _ f s

/-- What is beside the registers commutes with ER. -/
theorem handle_map {g : State → State} (hg : BesideRegisters g) (f : List Byte) (s : State) :
    handle f (g s) = g (handle f s) :=
  calc handle f (g s)
      = handle f (registersOf s (g s)) := by rw [show registersOf s (g s) = g s from (hg s s).symm]
    _ = registersOf (handle f s) (g s) := handle_registersOf (g s) f s
    _ = g (registersOf (handle f s) s) := (hg s (handle f s)).symm
    _ = g (handle f s) := by rw [← handle_registersOf s f s]; rfl

theorem performAction_withHost (h : State) (a : Action) (s : State) :
    performAction a (withHost h s) = (performAction a s).map (withHost h) := by
  cases a with
  | extract =>
    exact congrArg some
      (handle_map (g := withHost h) (fun _ _ => rfl) _
        (emit (.packetOut (s.buf.take (headSize s))) (bufDropFront (headSize s) s)))
  | _ => rfl

theorem frameStep_withHost (h s : State) : frameStep (withHost h s) = (frameStep s).map (withHost h) := by
  have hh : halted (withHost h s) = halted s := rfl
  rw [frameStep, frameStep, hh]
  cases halted s with
  | true => rfl
  | false => exact performAction_withHost h _ s

theorem Emits.withHost_eq {evs : List Event} {s t : State} (h : Emits evs s t) (hl : t.line = s.line) :
    withHost s t = t := by
  rw [withHost, ← h.answer, ← hl, ← h.feeding, ← h.requests, ← h.signals]

theorem HostWrite.sameBlock {g : State → State} (hg : HostWrite g) (s : State) : (g s).SameBlock s := by
  rw [show g s = withHost (g s) s from hg s s]
  exact sameBlock_refl s

/-- A write of the host's fields commutes with an FSTEP. -/
theorem frameStep_map {g : State → State} (hg : HostWrite g) (s : State) :
    frameStep (g s) = (frameStep s).map g := by
  rw [show g s = withHost (g s) s from hg s s, frameStep_withHost]
  cases hs : frameStep s with
  | none => rfl
  | some t =>
    obtain ⟨evs, hevs, -⟩ := frameStep_emits hs
    have hhost : withHost s t = t := hevs.withHost_eq (frameStep_line hs)
    exact congrArg some ((hg s t).symm.trans (by rw [hhost]))

theorem settle_map {g : State → State} (hg : HostWrite g) (n : Nat) (s : State) :
    settle n (g s) = g (settle n s) := by
  induction n generalizing s with
  | zero => rfl
  | succ n ih =>
    rw [settle, settle, frameStep_map hg]
    cases frameStep s with
    | none => rfl
    | some t => exact ih t

theorem runToQuiescence_map {g : State → State} (hg : HostWrite g) (s : State) :
    runToQuiescence (g s) = g (runToQuiescence s) := by
  obtain ⟨-, hbuf, -⟩ := hg.sameBlock s
  rw [runToQuiescence, hbuf, settle_map hg, runToQuiescence]

theorem bufPush_map {g : State → State} (hg : HostWrite g) (b : Byte) (s : State) :
    bufPush b (g s) = g (bufPush b s) := by
  rw [show g s = withHost (g s) s from hg s s]
  exact (hg s (bufPush b s)).symm

theorem pushEnabled_map {g : State → State} (hg : HostWrite g) (s : State) : pushEnabled (g s) = pushEnabled s := by
  rw [show g s = withHost (g s) s from hg s s]
  rfl

/-- A write of the host's fields that leaves the line commutes with FEED. -/
theorem feedBytes_map {g : State → State} (hg : HostWrite g)
    (hl : ∀ bs s, holdOnLine bs (g s) = g (holdOnLine bs s)) (bs : List Byte) (s : State) :
    feedBytes bs (g s) = g (feedBytes bs s) := by
  induction bs generalizing s with
  | nil => rfl
  | cons b bs ih =>
    simp only [feedBytes, runToQuiescence_map hg, pushEnabled_map hg, bufPush_map hg, ih, hl]
    split <;> rfl

theorem hostWrite_answerWith (a : Answer) : HostWrite (answerWith a) := fun _ _ => rfl

theorem hostWrite_takeLine : HostWrite takeLine := fun _ _ => rfl

theorem hostWrite_holdOnLine (bs : List Byte) : HostWrite (holdOnLine bs) := fun _ _ => rfl

theorem hostWrite_setFeeding (f : Option (List Event)) : HostWrite (setFeeding f) := fun _ _ => rfl

end Sys2Proof.Machine
end

section
/-! Runs of FSTEPs (spec/41_framer.md R112, R119 to R121): `runToQuiescence` as a run that ends where no FSTEP is
enabled, and how FEED goes on from one byte to the next. -/

namespace Sys2Proof.Machine

/-- A run with fuel for every byte of the buffer ends where no FSTEP is enabled (R121). -/
theorem frameStep_settle {n : Nat} {s : State} (h : s.buf.length ≤ n) : frameStep (settle n s) = none := by
  induction n generalizing s with
  | zero =>
    have hempty : s.buf.length < 2 := by omega
    exact frameStep_eq_none.2 (.inr (phase_short _ hempty))
  | succ n ih =>
    rw [settle]
    cases hs : frameStep s with
    | none => exact hs
    | some t =>
      have := frameStep_length_lt hs
      exact ih (by omega)

theorem frameStep_runToQuiescence (s : State) : frameStep (runToQuiescence s) = none := frameStep_settle le_rfl

/-- More fuel than bytes makes no difference. -/
theorem settle_eq_of_le {n m : Nat} {s : State} (hn : s.buf.length ≤ n) (hm : s.buf.length ≤ m) :
    settle n s = settle m s := by
  induction n generalizing m s with
  | zero =>
    have hnone : frameStep s = none := frameStep_settle (n := 0) hn
    cases m with
    | zero => rfl
    | succ m => rw [settle, settle, hnone]
  | succ n ih =>
    cases m with
    | zero =>
      have hnone : frameStep s = none := frameStep_settle (n := 0) hm
      rw [settle, settle, hnone]
    | succ m =>
      rw [settle, settle]
      cases hs : frameStep s with
      | none => rfl
      | some t =>
        have := frameStep_length_lt hs
        exact ih (by omega) (by omega)

theorem runToQuiescence_of_frameStep {s t : State} (h : frameStep s = some t) :
    runToQuiescence s = runToQuiescence t := by
  have hlt := frameStep_length_lt h
  rw [runToQuiescence, settle_eq_of_le le_rfl (Nat.le_succ _), settle, h]
  exact settle_eq_of_le hlt.le le_rfl

theorem runToQuiescence_idem (s : State) : runToQuiescence (runToQuiescence s) = runToQuiescence s :=
  runToQuiescence_of_frameStep_eq_none (frameStep_runToQuiescence s)

/-- A property that every FSTEP keeps holds where PF comes to quiescence. -/
theorem runToQuiescence_induct {P : State → Prop} (step : ∀ s t, P s → frameStep s = some t → P t) {s : State}
    (h : P s) : P (runToQuiescence s) := settle_induct step _ s h

theorem runToQuiescence_line (s : State) : (runToQuiescence s).line = s.line :=
  runToQuiescence_induct (P := fun t => t.line = s.line) (fun _ _ ht hu => (frameStep_line hu).trans ht) rfl

theorem runToQuiescence_stopped (s : State) : (runToQuiescence s).stopped = s.stopped := by
  obtain ⟨evs, h⟩ := runToQuiescence_emits s
  exact h.stopped

theorem runToQuiescence_config (s : State) : (runToQuiescence s).config = s.config := by
  obtain ⟨evs, h⟩ := runToQuiescence_emits s
  exact h.config

/-- A running block comes to quiescence, or to a fault. -/
theorem runToQuiescence_quiescent_or_fault {s : State} (h : s.Running) :
    (runToQuiescence s).Quiescent ∨ (runToQuiescence s).fault ≠ none := by
  obtain hn | hq := frameStep_eq_none.1 (frameStep_runToQuiescence s)
  · exact .inr fun hf => hn ⟨hf, (runToQuiescence_stopped s).trans h.2⟩
  · exact .inl hq

/-- Run to quiescence, PF takes the next byte unless the block is halted or the buffer is full. -/
theorem pushEnabled_runToQuiescence_iff (s : State) :
    pushEnabled (runToQuiescence s) = true ↔
      (runToQuiescence s).Running ∧ (runToQuiescence s).buf.length < (runToQuiescence s).config.bufCap := by
  rw [pushEnabled_iff]
  constructor
  · rintro ⟨hr, -, hcap⟩
    exact ⟨hr, hcap⟩
  · rintro ⟨hr, hcap⟩
    exact ⟨hr, (frameStep_eq_none.1 (frameStep_runToQuiescence s)).resolve_left (not_not_intro hr), hcap⟩

/-- `settle` is a run of FSTEPs, each of which shortens the buffer. -/
theorem fsteps_settle (n : Nat) (s : State) :
    ∃ k, k + (settle n s).buf.length ≤ s.buf.length ∧ fsteps k s = .next (settle n s) := by
  induction n generalizing s with
  | zero => exact ⟨0, by rw [settle, Nat.zero_add], rfl⟩
  | succ n ih =>
    rw [settle]
    cases hs : frameStep s with
    | none => exact ⟨0, (Nat.zero_add _).le, rfl⟩
    | some t =>
      obtain ⟨k, hk, hsteps⟩ := ih t
      have := frameStep_length_lt hs
      refine ⟨k + 1, by dsimp only; omega, ?_⟩
      rw [fsteps, exec_fstep_eq_next.2 hs]
      exact hsteps

theorem fsteps_runToQuiescence (s : State) :
    ∃ k, k + (runToQuiescence s).buf.length ≤ s.buf.length ∧ fsteps k s = .next (runToQuiescence s) :=
  fsteps_settle _ s

/-! ### FEED, byte by byte -/

theorem feedBytes_cons_of_enabled {s : State} (h : pushEnabled (runToQuiescence s) = true) (b : Byte)
    (bs : List Byte) :
    feedBytes (b :: bs) s = feedBytes bs (runToQuiescence (bufPush b (runToQuiescence s))) := by
  rw [feedBytes, if_pos h]

theorem feedBytes_cons_of_not_enabled {s : State} (h : ¬ pushEnabled (runToQuiescence s) = true) (b : Byte)
    (bs : List Byte) : feedBytes (b :: bs) s = holdOnLine (b :: bs) (runToQuiescence s) := by
  rw [feedBytes, if_neg h]

/-- FEED of one byte or more begins by running PF to quiescence. -/
theorem feedBytes_runToQuiescence {bs : List Byte} (h : bs ≠ []) (s : State) :
    feedBytes bs (runToQuiescence s) = feedBytes bs s := by
  cases bs with
  | nil => exact absurd rfl h
  | cons b bs => rw [feedBytes, feedBytes, runToQuiescence_idem]

/-- FEED that begins where no FSTEP is enabled ends there. -/
theorem frameStep_feedBytes {s : State} (h : frameStep s = none) (bs : List Byte) :
    frameStep (feedBytes bs s) = none := by
  induction bs generalizing s with
  | nil => exact h
  | cons b bs ih =>
    by_cases hp : pushEnabled (runToQuiescence s) = true
    · rw [feedBytes_cons_of_enabled hp]
      exact ih (frameStep_runToQuiescence _)
    · rw [feedBytes_cons_of_not_enabled hp, frameStep_map (hostWrite_holdOnLine _), frameStep_runToQuiescence]
      rfl

theorem runToQuiescence_feedBytes {bs : List Byte} (h : bs ≠ []) (s : State) :
    runToQuiescence (feedBytes bs s) = feedBytes bs s := by
  rw [← feedBytes_runToQuiescence h]
  exact runToQuiescence_of_frameStep_eq_none (frameStep_feedBytes (frameStep_runToQuiescence s) bs)

end Sys2Proof.Machine
end

section
/-! FEED (spec/41_framer.md R119, R203 and the derived laws): conservation, segmentation and the bulk form; O19 to
O22. -/

namespace Sys2Proof.Machine

/-- Settles O19: one turn of R119's loop, with each `runToQuiescence` written as the FSTEPs it is. -/
theorem feedOfOneByteIsPushThenFsteps : Obligations.FeedOfOneByteIsPushThenFsteps := by
  intro s b hr hl
  obtain ⟨m, -, hm⟩ := fsteps_runToQuiescence s
  have hend := runToQuiescence_quiescent_or_fault hr
  have hfeed : exec (.feed [b]) s =
      .next (answerWith (.fed (feedResults s (feedBytes [b] s))) (feedBytes [b] s)) := by
    have htake : takeLine s = s := by rw [takeLine, ← hl]
    change execFeed [b] s = _
    rw [execFeed_of_ne_nil (List.cons_ne_nil b []), htake, hl, List.nil_append]
  obtain ⟨evs, hevs⟩ := feedBytes_emits [b] s
  rw [feedResults_of_append hevs.trace] at hfeed
  refine ⟨m, _, hm, hend, fun hf hcap => ?pushed, fun hstop => ?held⟩
  case pushed =>
    have hrun : (runToQuiescence s).Running := ⟨hf, (runToQuiescence_stopped s).trans hr.2⟩
    have hp := (pushEnabled_runToQuiescence_iff s).2 ⟨hrun, hcap⟩
    have hbytes : feedBytes [b] s = runToQuiescence (bufPush b (runToQuiescence s)) :=
      feedBytes_cons_of_enabled hp b []
    obtain ⟨n, -, hn⟩ := fsteps_runToQuiescence (bufPush b (runToQuiescence s))
    rw [hbytes] at hfeed hevs
    exact ⟨_, n, _, evs, exec_push_of_enabled hp b, hn, runToQuiescence_quiescent_or_fault hrun, hevs.trace, hfeed⟩
  case held =>
    have hp : ¬ pushEnabled (runToQuiescence s) = true := by
      rw [pushEnabled_runToQuiescence_iff]
      rintro ⟨⟨hf, -⟩, hcap⟩
      exact hstop.elim (fun h => h hf) fun h => absurd hcap (Nat.not_lt.2 h)
    have hline : (runToQuiescence s).line = [] := (runToQuiescence_line s).trans hl
    have hbytes : feedBytes [b] s = { runToQuiescence s with line := [b] } := by
      rw [feedBytes_cons_of_not_enabled hp, holdOnLine, hline, List.nil_append]
    rw [hbytes] at hfeed hevs
    exact ⟨evs, hevs.trace, hfeed⟩

/-! ### Conservation -/

/-- Every FSTEP moves bytes from the buffer to the trace, in order (R125). -/
theorem frameStep_conserves {s t : State} (h : frameStep s = some t) :
    consumed t.trace ++ t.buf = consumed s.trace ++ s.buf := by
  obtain ⟨evs, hevs, hbytes⟩ := frameStep_emits h
  rw [hevs.trace, consumed_append, List.append_assoc, hbytes]

theorem runToQuiescence_conserves (s : State) :
    consumed (runToQuiescence s).trace ++ (runToQuiescence s).buf = consumed s.trace ++ s.buf :=
  runToQuiescence_induct (P := fun t => consumed t.trace ++ t.buf = consumed s.trace ++ s.buf)
    (fun _ _ ht hu => (frameStep_conserves hu).trans ht) rfl

/-- FEED with an empty line: the bytes are pushed up to a point, the rest is held, and FEED ends early only on a halted
block or a full buffer. -/
theorem feedBytes_conserves {bs : List Byte} {s : State} (hl : s.line = []) :
    ∃ pushed, bs = pushed ++ (feedBytes bs s).line ∧
      consumed (feedBytes bs s).trace ++ (feedBytes bs s).buf = consumed s.trace ++ s.buf ++ pushed ∧
      ((feedBytes bs s).line ≠ [] →
        ¬ (feedBytes bs s).Running ∨ (feedBytes bs s).config.bufCap ≤ (feedBytes bs s).buf.length) := by
  induction bs generalizing s with
  | nil => exact ⟨[], hl.symm, (List.append_nil _).symm, fun hne => absurd hl hne⟩
  | cons b bs ih =>
    have hq : (runToQuiescence s).line = [] := (runToQuiescence_line s).trans hl
    by_cases hp : pushEnabled (runToQuiescence s) = true
    · obtain ⟨pushed, hbs, hcons, hearly⟩ := ih (s := runToQuiescence (bufPush b (runToQuiescence s)))
        ((runToQuiescence_line _).trans hq)
      rw [feedBytes_cons_of_enabled hp]
      refine ⟨b :: pushed, by rw [List.cons_append, ← hbs], ?_, hearly⟩
      rw [hcons, runToQuiescence_conserves, bufPush_trace, bufPush_buf, ← List.append_assoc,
        runToQuiescence_conserves, List.append_assoc _ [b] pushed, List.singleton_append]
    · rw [feedBytes_cons_of_not_enabled hp, holdOnLine_line, hq]
      refine ⟨[], rfl, by simp [runToQuiescence_conserves], fun _ => ?_⟩
      by_contra hgo
      simp only [not_or, not_not, Nat.not_le] at hgo
      exact hp ((pushEnabled_runToQuiescence_iff s).2 hgo)

/-- Settles O20: the bytes offered are those held and then FEED's own, and `feedBytes` accounts for them. -/
theorem feedCompletesAndLosesNoByte : Obligations.FeedCompletesAndLosesNoByte := by
  refine ⟨fun s bs => ?_, fun s => rfl⟩
  by_cases hbs : bs = []
  · subst hbs
    exact ⟨_, [], rfl, List.append_nil _, (List.append_nil _).symm, fun h => absurd rfl h⟩
  · obtain ⟨pushed, hpushed, hcons, hearly⟩ := feedBytes_conserves (bs := s.line ++ bs) (takeLine_line s)
    exact ⟨_, pushed, execFeed_of_ne_nil hbs s, hpushed, hcons, fun _ => hearly⟩

/-! ### Segmentation -/

theorem takeLine_of_line_eq_nil {s : State} (h : s.line = []) : takeLine s = s := by
  rw [takeLine, ← h]

/-- FEED of a cut stream: the second call offers what the first one left with the host, and then its own bytes. -/
theorem feedBytes_append {as bs : List Byte} {s : State} (hl : s.line = []) :
    feedBytes (as ++ bs) s = feedBytes ((feedBytes as s).line ++ bs) (takeLine (feedBytes as s)) := by
  induction as generalizing s with
  | nil => rw [feedBytes, hl, takeLine_of_line_eq_nil hl]
  | cons a as ih =>
    have hq : (runToQuiescence s).line = [] := (runToQuiescence_line s).trans hl
    rw [List.cons_append]
    by_cases hp : pushEnabled (runToQuiescence s) = true
    · rw [feedBytes_cons_of_enabled hp, feedBytes_cons_of_enabled hp]
      exact ih ((runToQuiescence_line _).trans hq)
    · have htake : takeLine (holdOnLine (a :: as) (runToQuiescence s)) = runToQuiescence s :=
        takeLine_of_line_eq_nil hq
      rw [feedBytes_cons_of_not_enabled hp, feedBytes_cons_of_not_enabled hp, htake, holdOnLine_line, hq,
        feedBytes_of_blocked (frameStep_runToQuiescence s) hp]
      rfl

theorem feedBytes_takeLine_answerWith (bs : List Byte) (a : Answer) (s : State) :
    feedBytes bs (takeLine (answerWith a s)) = answerWith a (feedBytes bs (takeLine s)) :=
  feedBytes_map (hostWrite_answerWith a) (fun _ _ => rfl) bs (takeLine s)

/-- Settles O21: the first call leaves the rest of its bytes on the line, in front of the second call's. -/
theorem feedIsSegmentationInvariant : Obligations.FeedIsSegmentationInvariant := by
  intro s as bs
  by_cases has : as = []
  · subst has
    by_cases hbs : bs = []
    · subst hbs
      exact ⟨_, _, _, rfl, rfl, rfl, rfl⟩
    · refine ⟨answerWith (.fed []) s, _, _, rfl, execFeed_of_ne_nil hbs _, execFeed_of_ne_nil hbs s, ?_⟩
      rw [answerWith_line, feedBytes_takeLine_answerWith]
      rfl
  · have hab : as ++ bs ≠ [] := fun h => has (List.append_eq_nil_iff.1 h).1
    by_cases hbs : bs = []
    · subst hbs
      refine ⟨_, _, _, execFeed_of_ne_nil has s, rfl, execFeed_of_ne_nil hab s, ?_⟩
      rw [List.append_nil]
      rfl
    · refine ⟨_, _, _, execFeed_of_ne_nil has s, execFeed_of_ne_nil hbs _, execFeed_of_ne_nil hab s, ?_⟩
      rw [answerWith_line, feedBytes_takeLine_answerWith, ← List.append_assoc, feedBytes_append (takeLine_line s)]
      rfl

/-! ### The bulk form -/

/-- Bytes appended to the buffer all at once. -/
def bufAppend (bs : List Byte) (s : State) : State := { s with buf := s.buf ++ bs }

theorem bufAppend_nil (s : State) : bufAppend [] s = s := by rw [bufAppend, List.append_nil]

theorem bufAppend_cons (b : Byte) (bs : List Byte) (s : State) :
    bufAppend (b :: bs) s = bufAppend bs (bufPush b s) := by
  rw [bufAppend, bufAppend, bufPush_buf, List.append_assoc]
  rfl

theorem bufRead_bufAppend {i : Nat} {s : State} (h : i < s.buf.length) (bs : List Byte) :
    bufRead i (bufAppend bs s) = bufRead i s := List.getD_append _ _ _ _ h

theorem bufDropFront_bufAppend {n : Nat} {s : State} (h : n ≤ s.buf.length) (bs : List Byte) :
    bufDropFront n (bufAppend bs s) = bufAppend bs (bufDropFront n s) := by
  rw [bufDropFront, bufAppend, List.drop_append_of_le_length h]
  rfl

theorem dropFirst_bufAppend {s : State} (h : 0 < s.buf.length) (c : Cause) (bs : List Byte) :
    dropFirst c (bufAppend bs s) = bufAppend bs (dropFirst c s) := by
  rw [dropFirst, bufRead_bufAppend h, bufDropFront_bufAppend h]
  rfl

theorem performExtract_bufAppend {s : State} (h2 : 2 ≤ s.buf.length) (h : headSize s ≤ s.buf.length)
    (bs : List Byte) : performExtract (bufAppend bs s) = bufAppend bs (performExtract s) := by
  have hsize : headSize (bufAppend bs s) = headSize s := by rw [headSize, bufRead_bufAppend h2, headSize]
  have htake : (bufAppend bs s).buf.take (headSize s) = s.buf.take (headSize s) :=
    List.take_append_of_le_length h
  simp only [performExtract, hsize, htake, bufDropFront_bufAppend h]
  exact handle_map (g := bufAppend bs) (fun _ _ => rfl) _
    (emit (.packetOut (s.buf.take (headSize s))) (bufDropFront (headSize s) s))

theorem performAction_bufAppend {a : Action} {s t : State} (h : performAction a s = some t)
    (h2 : 2 ≤ s.buf.length) (hx : a = .extract → headSize s ≤ s.buf.length) (bs : List Byte) :
    performAction a (bufAppend bs s) = some (bufAppend bs t) := by
  have h0 : 0 < s.buf.length := by omega
  cases a with
  | waitShort => cases h
  | waitIncomplete => cases h
  | dropZeroLen =>
    cases h
    rw [performAction, performDropZeroLen, bufRead_bufAppend h2, dropFirst_bufAppend h0]
    rfl
  | dropUnknownSrc => cases h; exact congrArg some (dropFirst_bufAppend h0 _ bs)
  | dropBadChecksum => cases h; exact congrArg some (dropFirst_bufAppend h0 _ bs)
  | extract => cases h; exact congrArg some (performExtract_bufAppend h2 (hx rfl) bs)

/-- An FSTEP that is enabled is the same step with more bytes behind it in the buffer (R122). -/
theorem frameStep_bufAppend {s t : State} (h : frameStep s = some t) (bs : List Byte) :
    frameStep (bufAppend bs s) = some (bufAppend bs t) := by
  obtain ⟨hr, hq, -⟩ := frameStep_cases h
  have h2 : 2 ≤ s.buf.length := by
    obtain ⟨a, len, rest, hb, -⟩ := not_awaiting_cases hq
    simp [hb]
  have hx (hc : classify s.config s.buf = .extract) : headSize s ≤ s.buf.length := by
    obtain ⟨-, -, hle⟩ := classify_extract hc
    exact hle
  rw [frameStep_of_running hr] at h
  have hclass : classify (bufAppend bs s).config (bufAppend bs s).buf = classify s.config s.buf :=
    actionIsStableUnderLaterBytes s.config s.buf bs hq
  rw [frameStep_of_running (s := bufAppend bs s) hr, hclass]
  exact performAction_bufAppend h h2 hx bs

theorem runToQuiescence_bufAppend (bs : List Byte) (s : State) :
    runToQuiescence (bufAppend bs s) = runToQuiescence (bufAppend bs (runToQuiescence s)) :=
  runToQuiescence_induct (P := fun t => runToQuiescence (bufAppend bs s) = runToQuiescence (bufAppend bs t))
    (fun _ _ ht hu => ht.trans (runToQuiescence_of_frameStep (frameStep_bufAppend hu bs))) rfl

/-- With the room that WF6 asks for, PF run to quiescence refuses a byte only on a halted block. -/
theorem pushEnabled_runToQuiescence_of_cap {s : State} (hcap : 257 ≤ s.config.bufCap)
    (hr : (runToQuiescence s).Running) : pushEnabled (runToQuiescence s) = true := by
  have hq : (runToQuiescence s).Quiescent :=
    (frameStep_eq_none.1 (frameStep_runToQuiescence s)).resolve_left (not_not_intro hr)
  have := length_le_of_quiescent hq
  exact (pushEnabled_runToQuiescence_iff s).2 ⟨hr, by rw [runToQuiescence_config]; omega⟩

/-- The bulk form and FEED end alike, but for the place of the bytes that FEED leaves with the host: the bulk form has
them in the buffer already. -/
theorem runToQuiescence_bulk {bs : List Byte} {s : State} (hl : s.line = []) (hcap : 257 ≤ s.config.bufCap) :
    runToQuiescence (bufAppend bs s) =
      bufAppend (runToQuiescence (feedBytes bs s)).line (takeLine (runToQuiescence (feedBytes bs s))) := by
  induction bs generalizing s with
  | nil =>
    have hq : (runToQuiescence s).line = [] := (runToQuiescence_line s).trans hl
    rw [bufAppend_nil, feedBytes, hq, bufAppend_nil, takeLine_of_line_eq_nil hq]
  | cons b bs ih =>
    have hq : (runToQuiescence s).line = [] := (runToQuiescence_line s).trans hl
    rw [runToQuiescence_bufAppend]
    by_cases hr : (runToQuiescence s).Running
    · rw [bufAppend_cons, runToQuiescence_bufAppend,
        feedBytes_cons_of_enabled (pushEnabled_runToQuiescence_of_cap hcap hr)]
      exact ih ((runToQuiescence_line _).trans hq)
        (by rw [runToQuiescence_config, bufPush_config, runToQuiescence_config]; exact hcap)
    · have hp : ¬ pushEnabled (runToQuiescence s) = true := fun hp => hr (running_of_pushEnabled hp)
      have hnone : frameStep (bufAppend (b :: bs) (runToQuiescence s)) = none := frameStep_eq_none.2 (.inl hr)
      rw [feedBytes_cons_of_not_enabled hp, runToQuiescence_of_frameStep_eq_none hnone,
        runToQuiescence_map (hostWrite_holdOnLine _), runToQuiescence_idem, holdOnLine_line, hq]
      exact congrArg (bufAppend (b :: bs)) (takeLine_of_line_eq_nil hq).symm

/-- FEED from quiescence, on a running block with the room of WF6, pushes every byte unless a fault is raised. -/
theorem feedBytes_line_of_no_fault {bs : List Byte} {s : State} (hr : s.Running) (hq : s.Quiescent)
    (hl : s.line = []) (hcap : 257 ≤ s.config.bufCap) (hf : (feedBytes bs s).fault = none) :
    (feedBytes bs s).line = [] ∧ (feedBytes bs s).Quiescent := by
  obtain ⟨evs, hevs⟩ := feedBytes_emits bs s
  have hrun : (feedBytes bs s).Running := ⟨hf, hevs.stopped.trans hr.2⟩
  have hquiet : (feedBytes bs s).Quiescent :=
    (frameStep_eq_none.1 (frameStep_feedBytes (frameStep_eq_none.2 (.inr hq)) bs)).resolve_left (not_not_intro hrun)
  refine ⟨by_contra fun hne => ?_, hquiet⟩
  obtain ⟨-, -, -, hearly⟩ := feedBytes_conserves (bs := bs) hl
  have := length_le_of_quiescent hquiet
  have hfull := (hearly hne).resolve_left (not_not_intro hrun)
  rw [hevs.config] at hfull
  omega

/-- FEED as one equation, up to its answer; the empty sequence on an empty line too (log 24). -/
theorem exec_feed_eq {bs : List Byte} {s : State} (h : bs ≠ [] ∨ s.line = []) :
    ∃ a, exec (.feed bs) s = .next (answerWith a (feedBytes (s.line ++ bs) (takeLine s))) := by
  by_cases hbs : bs = []
  · have hl := h.resolve_left (not_not_intro hbs)
    refine ⟨.fed [], ?_⟩
    rw [hbs, hl, takeLine_of_line_eq_nil hl]
    rfl
  · exact ⟨_, execFeed_of_ne_nil hbs s⟩

/-- Settles O22: where no fault is raised FEED leaves nothing on the line, so the bulk form ends where it does. -/
theorem feedEqualsTheBulkForm : Obligations.FeedEqualsTheBulkForm := by
  intro s t bs hr hq hcap hne h hf
  obtain ⟨a, ha⟩ := exec_feed_eq hne
  obtain rfl : answerWith a (feedBytes (s.line ++ bs) (takeLine s)) = t := Host.Outcome.next.inj (ha.symm.trans h)
  obtain ⟨hline, hquiet⟩ :=
    feedBytes_line_of_no_fault (bs := s.line ++ bs) (s := takeLine s) hr hq (takeLine_line s) hcap hf
  have hstay : runToQuiescence (feedBytes (s.line ++ bs) (takeLine s)) = feedBytes (s.line ++ bs) (takeLine s) :=
    runToQuiescence_of_frameStep_eq_none (frameStep_eq_none.2 (.inr hquiet))
  have hbulk := runToQuiescence_bulk (bs := s.line ++ bs) (takeLine_line s) hcap
  rw [hstay, hline, bufAppend_nil, takeLine_of_line_eq_nil hline] at hbulk
  obtain ⟨n, -, hn⟩ := fsteps_runToQuiescence (bufAppend (s.line ++ bs) (takeLine s))
  rw [hbulk] at hn
  exact ⟨n, _, hn, hquiet, rfl⟩

end Sys2Proof.Machine
end

section
/-! What FEED extracts from a stream (spec/41_framer.md R123, last paragraph, spec/43_encoder.md, derived); O24 and
O25. -/

namespace Sys2Proof.Machine

/-- A byte that is no recognized code is dropped with the cause that the byte after it gives. -/
theorem frameStep_of_noise {s : State} {g x : Byte} {rest : List Byte} (hr : s.Running)
    (hb : s.buf = g :: x :: rest) (hg : recognized s.config g = false) :
    frameStep s =
      some { s with buf := x :: rest, trace := s.trace ++ [.dropped g (noiseCause s.config x)] } := by
  rw [frameStep_of_running hr, hb, classify_cons, ← dropFirst_eq hb]
  by_cases hbad : BadLength s.config x
  · have hx : bufRead 1 s = x := by rw [bufRead, hb]; rfl
    have hcause : zeroLenCause x = noiseCause s.config x := by
      rw [zeroLenCause, noiseCause]
      by_cases h0 : x = 0
      · rw [if_pos h0, if_pos h0]
      · rw [if_neg h0, if_neg h0, if_pos (hbad.resolve_left h0)]
    rw [if_pos hbad, performAction, performDropZeroLen, hx, hcause]
  · have hcause : noiseCause s.config x = .unknownSrc := by
      obtain ⟨h0, h1⟩ := not_or.1 hbad
      rw [noiseCause, if_neg h0, if_neg h1]
    rw [if_neg hbad, if_pos hg, hcause]
    rfl

/-- PF run over noise and the frame behind it: one drop per noise byte, and then the frame is extracted. -/
theorem runToQuiescence_of_noise {noise f : List Byte} {s : State} (hr : s.Running) (hb : s.buf = noise ++ f)
    (hnoise : ∀ g ∈ noise, recognized s.config g = false) (hf : isFrame f = true) (hx : xchk f = true)
    (h1 : lenByte f = 1 → s.config.acceptLen1 = true) (hdev : recognized s.config (source f) = true) :
    ∃ evs, (runToQuiescence s).buf = [] ∧
      (runToQuiescence s).trace = s.trace ++ noiseDrops s.config (source f) noise ++ .packetOut f :: evs ∧
      evs.filter isFeedResult = [] := by
  induction noise generalizing s with
  | nil =>
    have hb' : s.buf = f ++ [] := by rw [hb, List.nil_append, List.append_nil]
    have hstep : frameStep s = some (handle f { s with buf := [], trace := s.trace ++ [.packetOut f] }) := by
      rw [frameStep_of_running hr, hb', classify_of_frame hf hx h1 hdev, ← performExtract_eq hb' hf]
      rfl
    obtain ⟨evs, hevs, hquiet⟩ :=
      handle_emits (s := { s with buf := [], trace := s.trace ++ [.packetOut f] }) hf hr.1
    have hempty : (handle f { s with buf := [], trace := s.trace ++ [.packetOut f] }).buf = [] := handle_buf f _
    have hstay := runToQuiescence_of_frameStep_eq_none
      (frameStep_eq_none.2 (.inr (phase_short _ (by rw [hempty]; decide))))
    refine ⟨evs, ?_, ?_, List.filter_eq_nil_iff.2 fun e he => by simp [hquiet e he]⟩
    · rw [runToQuiescence_of_frameStep hstep, hstay, hempty]
    · rw [runToQuiescence_of_frameStep hstep, hstay, hevs.trace, noiseDrops, List.append_nil, List.append_assoc]
      rfl
  | cons g noise ih =>
    obtain ⟨hpos, hlen⟩ := (isFrame_iff f).1 hf
    have hnext : noise ++ f = noise.headD (source f) :: (noise ++ f).tail := by
      cases noise with
      | nil =>
        cases f with
        | nil => simp at hlen
        | cons a rest => rfl
      | cons x rest => rfl
    have hstep := frameStep_of_noise (x := noise.headD (source f)) (rest := (noise ++ f).tail) hr
      (by rw [hb, List.cons_append, ← hnext]) (hnoise g List.mem_cons_self)
    rw [← hnext] at hstep
    obtain ⟨evs, hbuf, htrace, hquiet⟩ := ih (s := { s with
      buf := noise ++ f, trace := s.trace ++ [.dropped g (noiseCause s.config (noise.headD (source f)))] }) hr rfl
      (fun x hx => hnoise x (List.mem_cons_of_mem g hx)) h1 hdev
    rw [runToQuiescence_of_frameStep hstep]
    refine ⟨evs, hbuf, htrace.trans ?_, hquiet⟩
    rw [noiseDrops, ← List.append_cons]

/-- An empty running framer that is fed noise and a frame ends with an empty buffer and an empty line. -/
theorem exec_feed_of_noise {s : State} {noise f : List Byte} (hr : s.Running) (hb : s.buf = []) (hl : s.line = [])
    (hcap : 257 ≤ s.config.bufCap) (hnoise : ∀ g ∈ noise, recognized s.config g = false) (hf : isFrame f = true)
    (hx : xchk f = true) (h1 : lenByte f = 1 → s.config.acceptLen1 = true)
    (hdev : recognized s.config (source f) = true) :
    ∃ t evs, exec (.feed (noise ++ f)) s = .next t ∧ t.buf = [] ∧ t.line = [] ∧
      t.trace = s.trace ++ noiseDrops s.config (source f) noise ++ .packetOut f :: evs ∧
      evs.filter isFeedResult = [] := by
  obtain ⟨a, ha⟩ := exec_feed_eq (bs := noise ++ f) (.inr hl)
  rw [hl, List.nil_append, takeLine_of_line_eq_nil hl] at ha
  obtain ⟨evs, hbuf, htrace, hquiet⟩ := runToQuiescence_of_noise (s := bufAppend (noise ++ f) s) hr
    (by rw [bufAppend, hb, List.nil_append]) hnoise hf hx h1 hdev
  have hstart : frameStep s = none := frameStep_eq_none.2 (.inr (phase_short _ (by rw [hb]; decide)))
  have hbulk := runToQuiescence_bulk (bs := noise ++ f) hl hcap
  rw [runToQuiescence_of_frameStep_eq_none (frameStep_feedBytes hstart _)] at hbulk
  rw [hbulk] at hbuf htrace
  obtain ⟨hbuf, hline⟩ := List.append_eq_nil_iff.1 hbuf
  exact ⟨_, evs, ha, hbuf, hline, htrace, hquiet⟩

/-- Settles O25: `exec_feed_of_noise` without its clause on the line. -/
theorem unrecognizedNoiseIsDroppedBeforeAFrame : Obligations.UnrecognizedNoiseIsDroppedBeforeAFrame := by
  intro s noise f hr hb hl hcap hnoise hf hx h1 hdev
  obtain ⟨t, evs, ht, hbuf, -, htrace, hquiet⟩ := exec_feed_of_noise hr hb hl hcap hnoise hf hx h1 hdev
  exact ⟨t, evs, ht, hbuf, htrace, hquiet⟩

/-- Settles O24: an encoded frame is a valid one, with no noise before it, and its length byte is at least 2. -/
theorem feedOfAnEncodedFrameExtractsIt : Obligations.FeedOfAnEncodedFrameExtractsIt := by
  intro s src dst cmd text hr hb hl hcap hdev hle
  rw [← List.length_append] at hle
  have h1 : lenByte (wireFrame src dst (cmd ++ text)) = 1 → s.config.acceptLen1 = true := by
    rw [lenByte_wireFrame hle]
    omega
  obtain ⟨t, evs, ht, hbuf, hline, htrace, hquiet⟩ := exec_feed_of_noise (noise := []) hr hb hl hcap
    (fun g hg => absurd hg List.not_mem_nil) (isFrame_wireFrame hle src dst) (xchk_wireFrame hle src dst) h1 hdev
  rw [noiseDrops, List.append_nil] at htrace
  exact ⟨t, evs, ht, hbuf, hline, htrace, hquiet⟩

end Sys2Proof.Machine
end

section
/-! ER over an extracted frame and over a sequence of frames (spec/42_responder.md R153, R154, derived); O36 and
O37. -/

namespace Sys2Proof.Machine

/-- The four ends of ER's handling of a frame (R153): nothing, one reply, one Unhandled, or the channel fault with the
channel it names. -/
def OneOutcome (f : List Byte) (s t : State) : Prop :=
  (t.trace = s.trace ∧ t.fault = none) ∨
    (∃ r, t.trace = s.trace ++ [.replyOut r] ∧ t.fault = none) ∨
    (t.trace = s.trace ++ [.unhandled f] ∧ t.fault = none) ∨
    ∃ c : Int, (c < 0 ∨ 255 < c) ∧ t.channel = c ∧
      t.trace = s.trace ++ [.faultRaised ⟨.channelOutOfRange, c⟩] ∧ t.fault = some ⟨.channelOutOfRange, c⟩

/-- WF4 makes every status reply fit a frame, so the channel alone decides between reply and fault. -/
theorem statusReply_oneOutcome {s : State} {pfx text : List Byte} (hf : s.fault = none)
    (hc : configOk s.config = true) (hn : s.NibbleState) (ht : (pfx, text) ∈ statusFields s.config) (c : Int)
    (f : List Byte) : OneOutcome f s (statusReply f pfx text (setChannel c s)) := by
  by_cases hrange : 0 ≤ c ∧ c ≤ 255
  · rw [statusReply_of_range (s := setChannel c s) hc hn ht hrange.1 hrange.2]
    exact .inr (.inl ⟨_, rfl, hf⟩)
  · have hout : c < 0 ∨ 255 < c := by omega
    rw [statusReply_of_out (s := setChannel c s) hout]
    exact .inr (.inr (.inr ⟨c, hout, rfl, rfl, rfl⟩))

theorem handle_oneOutcome {s : State} (hf : s.fault = none) (hc : configOk s.config = true) (hn : s.NibbleState)
    (f : List Byte) : OneOutcome f s (handle f s) := by
  have status {pfx text : List Byte} (ht : (pfx, text) ∈ statusFields s.config) (c : Int) :
      OneOutcome f s (statusReply f pfx text (setChannel c s)) := statusReply_oneOutcome hf hc hn ht c f
  rw [handle_eq_performKind]
  cases kindOf s.config f with
  | ignore => exact .inl ⟨rfl, hf⟩
  | poll =>
    have hfits : s.config.announce.length ≤ 253 := (passes_wf3_iff _).1 ((configOk_iff _).1 hc .wf3)
    rw [performKind, performPoll, sendReply_of_le (text := []) hfits]
    exact .inr (.inl ⟨_, rfl, hf⟩)
  | power => exact status (by simp [statusFields]) s.channel
  | mode => exact status (by simp [statusFields]) s.channel
  | now => exact status (by simp [statusFields]) s.channel
  | chUp => exact status (by simp [statusFields]) (s.channel + 1)
  | chDown => exact status (by simp [statusFields]) (s.channel - 1)
  | sat => exact status (by simp [statusFields]) s.channel
  | unhandled => exact .inr (.inr (.inl ⟨rfl, hf⟩))

/-- Settles O36: the frame is reported first, and then ER has one of its four ends. -/
theorem extractHasOneResponderOutcome : Obligations.ExtractHasOneResponderOutcome := by
  intro s t hc hn h
  obtain ⟨⟨hf, -⟩, h⟩ := whenRunning_eq_next.1 (show execExtract s = .next t from h)
  obtain ⟨-, rfl⟩ := whenAction_eq_next.1 h
  refine ⟨s.buf.take (headSize s), ?_⟩
  have houtcome := handle_oneOutcome
    (s := emit (.packetOut (s.buf.take (headSize s))) (bufDropFront (headSize s) s)) hf hc hn
    (s.buf.take (headSize s))
  simp only [OneOutcome, emit_trace, bufDropFront_trace, List.append_assoc, List.singleton_append] at houtcome
  exact houtcome

/-- One more frame to handle: it is a frame, the block runs, and ER handles it first. -/
theorem handleFrames_cons {f : List Byte} {fs : List (List Byte)} {s t : State}
    (h : handleFrames (f :: fs) s = .next t) :
    s.Running ∧ isFrame f = true ∧ handleFrames fs (handle f s) = .next t := by
  rw [handleFrames] at h
  by_cases hf : isFrame f = true
  · rw [decode_frame hf] at h
    dsimp only at h
    split at h
    · rename_i u hu
      rw [exec_kindInstr_eq] at hu
      obtain ⟨hr, -, -, rfl⟩ := whenKind_eq_next.1 hu
      rw [← handle_eq_performKind] at h
      exact ⟨hr, hf, h⟩
    · cases h
    · cases h
  · rw [decode, if_neg hf] at h
    cases h

theorem countKind_cons (cfg : Config) (k : Kind) (f : List Byte) (fs : List (List Byte)) :
    (countKind cfg k (f :: fs) : Int) = (if kindOf cfg f = k then 1 else 0) + countKind cfg k fs := by
  by_cases h : kindOf cfg f = k <;> simp [countKind, h, add_comm]

theorem channelMove_eq (k : Kind) :
    channelMove k = (if k = .chUp then 1 else 0) - (if k = .chDown then 1 else 0) := by
  cases k <;> rfl

/-- Settles O37, by induction on the frames: each moves the channel by its kind and leaves what the kinds of the later
ones are read from. -/
theorem channelCountsUpAndDown : Obligations.ChannelCountsUpAndDown := by
  intro s t fs h
  induction fs generalizing s with
  | nil =>
    cases h
    exact ⟨by simp [countKind], rfl, rfl⟩
  | cons f fs ih =>
    obtain ⟨⟨hfault, -⟩, hf, h⟩ := handleFrames_cons h
    obtain ⟨evs, hevs, -⟩ := handle_emits hf hfault
    obtain ⟨hchannel, hband, hpreset⟩ := ih _ h
    refine ⟨?_, hband.trans hevs.band, hpreset.trans hevs.preset⟩
    rw [hchannel, hevs.config, handle_channel, channelMove_eq, countKind_cons, countKind_cons]
    omega

end Sys2Proof.Machine
end

section
/-! The steps of the block with its host (spec/00_scope.md R12, spec/41_framer.md R119, R120, spec/60_exceptions.md
R189): the equations of `step` by what is due and by what is enabled; O54, O55, O60, O53 and O23. -/

namespace Sys2Proof.Machine

/-! ### What is enabled -/

theorem feedOver_iff (s : State) : s.FeedOver ↔ nothingEnabled s = true := by
  rw [nothingEnabled_iff]
  refine or_congr_right' fun hr => and_congr_right fun hq => or_congr_right ?_
  rw [Bool.eq_false_iff, ne_eq, pushEnabled_iff, ← Nat.not_lt]
  exact not_congr ⟨fun hcap => ⟨not_not.1 hr, hq, hcap⟩, fun ⟨_, _, hcap⟩ => hcap⟩

/-- What a state enables: nothing, PUSH of the next byte of the line, or an FSTEP. -/
theorem enabled_cases (s : State) :
    nothingEnabled s = true ∨ (∃ b rest, s.line = b :: rest ∧ pushEnabled s = true) ∨ ∃ t, frameStep s = some t := by
  by_cases hr : s.Running
  swap
  · exact .inl ((nothingEnabled_iff s).2 (.inl hr))
  by_cases hq : s.Quiescent
  swap
  · exact .inr (.inr (frameStep_isSome hr hq))
  cases hl : s.line with
  | nil => exact .inl ((nothingEnabled_iff s).2 (.inr ⟨hq, .inl hl⟩))
  | cons b rest =>
    cases hp : pushEnabled s with
    | false => exact .inl ((nothingEnabled_iff s).2 (.inr ⟨hq, .inr hp⟩))
    | true => exact .inr (.inl ⟨b, rest, rfl, rfl⟩)

theorem nothingEnabled_of_frameStep {s t : State} (h : frameStep s = some t) : nothingEnabled s = false := by
  obtain ⟨hr, hq, -⟩ := frameStep_cases h
  rw [Bool.eq_false_iff, ne_eq, nothingEnabled_iff]
  simp [hr, hq]

theorem nothingEnabled_of_push {s : State} {b : Byte} {rest : List Byte} (hl : s.line = b :: rest)
    (hp : pushEnabled s = true) : nothingEnabled s = false := by
  have hr := running_of_pushEnabled hp
  rw [Bool.eq_false_iff, ne_eq, nothingEnabled_iff]
  simp [hr, hl, hp]

theorem frameStep_of_nothingEnabled {s : State} (h : nothingEnabled s = true) : frameStep s = none :=
  frameStep_eq_none.2 (((nothingEnabled_iff s).1 h).imp_right And.left)

/-- PUSH of the next byte of the line, which leaves the line (R203). -/
def pushNext (b : Byte) (rest : List Byte) (s : State) : State := bufPush b { s with line := rest }

/-! ### The block's own step -/

theorem blockStep_of_frameStep {s t : State} (h : frameStep s = some t) : blockStep s = .next t := by
  obtain ⟨hr, hq, -⟩ := frameStep_cases h
  obtain ⟨hn, -⟩ | ⟨-, b, rest, -, hp, -⟩ | ⟨-, -, hblock⟩ := blockStep_cases s
  · exact absurd hr hn
  · exact absurd (quiescent_of_pushEnabled hp) hq
  · rw [hblock]
    exact exec_actionInstr_of_selected hr rfl (by rw [← frameStep_of_running hr, h])

theorem blockStep_of_push {s : State} {b : Byte} {rest : List Byte} (hl : s.line = b :: rest)
    (hp : pushEnabled s = true) : blockStep s = .next (pushNext b rest s) := by
  obtain ⟨hn, -⟩ | ⟨-, c, more, hl', -, hblock⟩ | ⟨-, hnone, -⟩ := blockStep_cases s
  · exact absurd (running_of_pushEnabled hp) hn
  · obtain ⟨rfl, rfl⟩ : b = c ∧ rest = more := List.cons.inj (hl.symm.trans hl')
    exact hblock.trans (exec_push_of_enabled (s := { s with line := rest }) hp b)
  · simp [hl, hp] at hnone

theorem blockStep_of_nothingEnabled {s : State} (h : nothingEnabled s = true) : blockStep s = .next s := by
  obtain ⟨-, hblock⟩ | ⟨-, b, rest, hl, hp, -⟩ | ⟨hr, -, hblock⟩ := blockStep_cases s
  · exact hblock
  · rw [nothingEnabled_of_push hl hp] at h
    cases h
  · obtain ⟨hq, -⟩ := ((nothingEnabled_iff s).1 h).resolve_left (not_not_intro hr)
    obtain ⟨hwait, -⟩ := wait_changes_nothing ((Action.phase_eq_awaitingBytes_iff _).1 hq) rfl
    rw [hblock, hwait]

/-! ### A step of the FEED in progress -/

theorem feedStep_of_nothingEnabled {s : State} (h : nothingEnabled s = true) (es : List Event) :
    feedStep es s = .next (endFeed es s) := if_pos h

theorem feedStep_of_frameStep {s t : State} (h : frameStep s = some t) (es : List Event) :
    feedStep es s = .next (setFeeding (some (es ++ feedResults s t)) t) := by
  rw [feedStep, nothingEnabled_of_frameStep h, blockStep_of_frameStep h]
  rfl

theorem feedStep_of_push {s : State} {b : Byte} {rest : List Byte} (hl : s.line = b :: rest)
    (hp : pushEnabled s = true) (es : List Event) :
    feedStep es s = .next (setFeeding (some es) (pushNext b rest s)) := by
  have hno : feedResults s (pushNext b rest s) = [] :=
    feedResults_of_append (evs := []) (List.append_nil _).symm
  rw [feedStep, nothingEnabled_of_push hl hp, blockStep_of_push hl hp]
  simp only [Bool.false_eq_true, if_false, collectFeed, hno, List.append_nil]

/-! ### What is due -/

theorem step_of_unsignalled {s : State} (h : s.Unsignalled) : step s = unsignalledStep s.afterSignal := by
  cases hs : s.signals with
  | nil => exact step_of_no_signals hs
  | cons c rest =>
    cases c with
    | none => exact step_of_pass hs
    | some c => exact absurd hs (h c rest)

theorem step_of_feeding {s : State} {es : List Event} (h : s.Unsignalled) (hf : s.feeding = some es) :
    step s = feedStep es s.afterSignal := by
  rw [step_of_unsignalled h, unsignalledStep, show s.afterSignal.feeding = some es from hf]

theorem step_of_request {s : State} {r : Request} {rest : List Request} (h : s.Unsignalled) (hf : s.feeding = none)
    (hr : s.requests = r :: rest) : step s = requestStep r (setRequests rest s.afterSignal) := by
  rw [step_of_unsignalled h, unsignalledStep, show s.afterSignal.feeding = none from hf,
    show s.afterSignal.requests = r :: rest from hr]

theorem step_of_idle {s : State} (h : s.Unsignalled) (hf : s.feeding = none) (hr : s.requests = []) :
    step s = blockStep s.afterSignal := by
  rw [step_of_unsignalled h, unsignalledStep, show s.afterSignal.feeding = none from hf,
    show s.afterSignal.requests = [] from hr]

theorem concludeFeed_of_not_over {s : State} (h : s.feeding = none ∨ ¬ s.FeedOver) : concludeFeed s = s := by
  obtain ⟨-, hsame⟩ | ⟨es, hf, hn, -⟩ := concludeFeed_cases s
  · exact hsame
  · obtain h | h := h
    · rw [h] at hf
      cases hf
    · exact absurd ((feedOver_iff s).2 hn) h

/-- A control step that finds no FEED to end. -/
theorem step_of_signal_not_over {s : State} {c : Control} {rest : List (Option Control)}
    (h : s.signals = some c :: rest) (ho : s.feeding = none ∨ ¬ s.FeedOver) :
    step s = exec (controlInstr c) (setSignals rest s) := by
  rw [step_of_signal h, concludeFeed_of_not_over (s := setSignals rest s) ho]

/-- A control step that finds the FEED in progress over, and ends it. -/
theorem step_of_signal_over {s : State} {c : Control} {rest : List (Option Control)} {es : List Event}
    (h : s.signals = some c :: rest) (hf : s.feeding = some es) (ho : s.FeedOver) :
    step s = exec (controlInstr c) (endFeed es (setSignals rest s)) := by
  rw [step_of_signal h, concludeFeed_of_over (s := setSignals rest s) hf ((feedOver_iff s).1 ho)]

/-- Settles O54: a signal comes first, and without one the next request of the host's program. -/
theorem stepRunsTheRequestedOperation : Obligations.StepRunsTheRequestedOperation := by
  refine fun s => ⟨fun ho => ⟨fun rest hs => step_of_signal_not_over hs ho,
      fun cfg rest hs => step_of_signal_not_over hs ho⟩,
    fun es hf ho => ⟨fun rest hs => step_of_signal_over hs hf ho, fun cfg rest hs => step_of_signal_over hs hf ho⟩,
    fun hu hf => ⟨fun rest hr => step_of_request hu hf hr, fun cfg rest hr => step_of_request hu hf hr,
      fun b bs rest hr => step_of_request hu hf hr, fun rest hr => step_of_request hu hf hr⟩⟩

/-- Settles O55: the block's own step, by what is enabled. -/
theorem stepRunsTheDecodedOperation : Obligations.StepRunsTheDecodedOperation := by
  intro s hu hf hreq
  rw [step_of_idle hu hf hreq]
  have idle (ho : s.FeedOver) : blockStep s.afterSignal = .next s.afterSignal :=
    blockStep_of_nothingEnabled ((feedOver_iff s.afterSignal).1 ho)
  refine ⟨fun hn => idle (.inl hn), fun hr hq i hi => ?fstep, fun hr hq hcap b rest hl i hi => ?push,
    fun _ hq hl => idle (.inr ⟨hq, hl⟩)⟩
  case fstep =>
    obtain rfl : actionInstr (classify s.config s.buf) = i := Except.ok.inj hi
    obtain ⟨haction, -⟩ := (fstepPerformsTheSelectedAction s.afterSignal).1 ⟨hr, hq⟩
    obtain ⟨t, ht⟩ := frameStep_isSome (s := s.afterSignal) hr hq
    have hfstep : blockStep s.afterSignal = exec .fstep s.afterSignal := by
      rw [blockStep_of_frameStep ht, exec_fstep_eq_next.2 ht]
    exact ⟨hfstep.trans haction, hfstep⟩
  case push =>
    cases hi
    have hp : pushEnabled s.afterSignal = true := (pushEnabled_iff s.afterSignal).2 ⟨hr, hq, hcap⟩
    rw [blockStep_of_push (s := s.afterSignal) hl hp]
    exact (exec_push_of_enabled (s := { s.afterSignal with line := rest }) hp b).symm

/-! ### Every step is a step of the block or changes nothing of it -/

/-- `t` is what one PUSH, FSTEP, STOP or RESET makes of the block of `s`, or its block is that of `s` (R12). -/
def TakesBlockStep (s t : State) : Prop :=
  t.SameBlock s ∨
    ∃ i u, ((∃ b, i = .push b) ∨ (i = .fstep ∧ ¬ s.Quiescent) ∨ i = .stop ∨ ∃ cfg, i = .reset cfg) ∧
      exec i s = .next u ∧ t.SameBlock u

theorem running_iff_of_sameBlock {s t : State} (h : t.SameBlock s) : t.Running ↔ s.Running := by
  obtain ⟨-, -, hstopped, hfault, -⟩ := h
  rw [State.Running, State.Running, hstopped, hfault]

/-- A control step reads and writes the block alone. -/
theorem control_takesBlockStep {c : Control} {s w t : State} (hw : w.SameBlock s)
    (h : exec (controlInstr c) w = .next t) : TakesBlockStep s t := by
  cases c with
  | stop =>
    obtain ⟨hr, ht⟩ := whenRunning_eq_next.1 ((exec_stop_eq w).symm.trans h)
    cases ht
    have hstop : exec .stop s = .next (setStopped s) := by
      rw [exec_stop_eq, whenRunning_of_running ((running_iff_of_sameBlock hw).1 hr)]
    obtain ⟨hconfig, hbuf, -, hfault, hchannel, hband, hpreset, htrace⟩ := hw
    exact .inr ⟨_, _, .inr (.inr (.inl rfl)), hstop, hconfig, hbuf, rfl, hfault, hchannel, hband, hpreset, htrace⟩
  | reset cfg =>
    by_cases hc : configOk cfg = true
    · have ht := h.symm.trans (exec_reset_of_configOk hc w)
      cases ht
      exact .inr ⟨_, _, .inr (.inr (.inr ⟨cfg, rfl⟩)), exec_reset_of_configOk hc s, sameBlock_refl _⟩
    · obtain ⟨c, hrefused⟩ := exec_reset_of_not_configOk hc w
      exact nomatch hrefused.symm.trans h

/-- The block's own step does not depend on the host's fields but for the next byte of the line. -/
theorem blockStep_takesBlockStep {h s u t : State} (hu : blockStep (withHost h s) = .next u) (ht : t.SameBlock u) :
    TakesBlockStep s t := by
  obtain hn | ⟨b, rest, hl, hp⟩ | ⟨v, hv⟩ := enabled_cases (withHost h s)
  · cases hu.symm.trans (blockStep_of_nothingEnabled hn)
    exact .inl ht
  · cases hu.symm.trans (blockStep_of_push hl hp)
    exact .inr ⟨_, _, .inl ⟨b, rfl⟩, exec_push_of_enabled (s := s) hp b, ht⟩
  · cases hu.symm.trans (blockStep_of_frameStep hv)
    rw [frameStep_withHost, Option.map_eq_some_iff] at hv
    obtain ⟨w, hw, rfl⟩ := hv
    obtain ⟨-, hq, -⟩ := frameStep_cases hw
    exact .inr ⟨_, _, .inr (.inl ⟨rfl, hq⟩), exec_fstep_eq_next.2 hw, ht⟩

theorem step_takesBlockStep {s t : State} (h : step s = .next t) : TakesBlockStep s t := by
  obtain ⟨c, rest, -, hstep⟩ | ⟨-, ⟨es, -, -, hstep⟩ | ⟨es, -, -, hstep⟩ | ⟨-, bs, rest, -, hstep⟩ |
    ⟨-, c, rest, -, hstep⟩ | ⟨-, -, hstep⟩⟩ := step_cases s
  · have hsame : (concludeFeed (setSignals rest s)).SameBlock s := by
      rw [concludeFeed_frame]
      exact sameBlock_refl s
    exact control_takesBlockStep hsame (hstep.symm.trans h)
  · cases hstep.symm.trans h
    exact .inl (sameBlock_refl s)
  · obtain ⟨u, hu, rfl⟩ := collectFeed_eq_next.1 (hstep.symm.trans h)
    exact blockStep_takesBlockStep (h := s.afterSignal) hu (sameBlock_refl u)
  · cases hstep.symm.trans h
    cases bs <;> exact .inl (sameBlock_refl s)
  · exact control_takesBlockStep (w := setRequests rest s.afterSignal) (sameBlock_refl s) (hstep.symm.trans h)
  · exact blockStep_takesBlockStep (h := s.afterSignal) (hstep.symm.trans h) (sameBlock_refl t)

theorem nothingEnabled_of_normalEnd {s : State} (h : s.NormalEnd) : nothingEnabled s = true := by
  obtain ⟨hq, -, hleft⟩ := h
  exact (nothingEnabled_iff s).2 (.inr ⟨hq, .inl (List.append_eq_nil_iff.1 hleft).1⟩)

/-- At a normal end a host that asks for no control step has calls of FEED of the empty sequence left at most. -/
theorem step_of_normalEnd {s : State} (h : s.NormalEnd) (hu : s.Unsignalled)
    (hreq : ∀ r ∈ s.requests, ∃ bs, r = .feed bs) : ∃ t, step s = .next t ∧ t.SameBlock s ∧ t.NormalEnd := by
  have hn : nothingEnabled s.afterSignal = true := nothingEnabled_of_normalEnd h
  cases hf : s.feeding with
  | some es =>
    exact ⟨_, (step_of_feeding hu hf).trans (feedStep_of_nothingEnabled hn es), sameBlock_refl s, h⟩
  | none =>
    cases hr : s.requests with
    | nil => exact ⟨_, (step_of_idle hu hf hr).trans (blockStep_of_nothingEnabled hn), sameBlock_refl s, h⟩
    | cons r rest =>
      obtain ⟨bs, rfl⟩ := hreq r (by simp [hr])
      obtain ⟨hq, hfault, hleft⟩ := h
      rw [State.leftToOffer, hr, List.flatMap_cons, List.append_eq_nil_iff, List.append_eq_nil_iff] at hleft
      obtain ⟨hline, hbs, hrest⟩ := hleft
      obtain rfl : bs = [] := hbs
      refine ⟨_, step_of_request hu hf hr, sameBlock_refl s, hq, hfault, ?_⟩
      exact List.append_eq_nil_iff.2 ⟨hline, hrest⟩

/-- Settles O60: `step_takesBlockStep`, and at a normal end nothing is enabled. -/
theorem everyStepIsPushFstepStopOrReset : Obligations.EveryStepIsPushFstepStopOrReset :=
  ⟨fun _ _ h => step_takesBlockStep h, fun _ => step_of_normalEnd⟩

/-! ### The invariant -/

theorem frameStep_buf_bound {s t : State} (hs : s.buf.length ≤ 257) (h : frameStep s = some t) :
    t.buf.length ≤ 257 :=
  (frameStep_length_lt h).le.trans hs

/-- PUSH is enabled on a waiting buffer alone, which has room for a byte below 257 (R39). -/
theorem bufPush_buf_bound {s : State} (h : pushEnabled s = true) (b : Byte) : (bufPush b s).buf.length ≤ 257 := by
  have := length_le_of_quiescent (quiescent_of_pushEnabled h)
  rw [bufPush_buf, List.length_append, List.length_singleton]
  omega

theorem exec_buf_bound {i : Instr} {s t : State} (hs : s.buf.length ≤ 257) (h : exec i s = .next t) :
    t.buf.length ≤ 257 := by
  cases exec_effect h with
  | xsum => exact hs
  | xchk => exact hs
  | encode => exact hs
  | encodeFault => exact hs
  | wait => exact hs
  | push b he hp => exact bufPush_buf_bound hp b
  | fstep t he hstep => exact frameStep_buf_bound hs hstep
  | drop c he hstep => exact frameStep_buf_bound hs hstep
  | feedNothing => exact hs
  | feed bs =>
    exact feedBytes_induct (P := fun u => u.buf.length ≤ 257) (fun _ _ => frameStep_buf_bound)
      (fun b _ _ hp => bufPush_buf_bound hp b) (fun _ _ hu => hu) (s.line ++ bs) (takeLine s) hs
  | kind k f =>
    rw [handle_buf]
    exact hs
  | stop => exact hs
  | reset => exact Nat.zero_le _

/-- The invariant speaks of the block alone. -/
theorem State.Inv.of_sameBlock {s t : State} (h : s.Inv) (ht : t.SameBlock s) : t.Inv := by
  obtain ⟨hconfig, hbuf, -, hfault, -, hband, hpreset, htrace⟩ := ht
  exact
    { config_ok := by rw [hconfig]; exact h.config_ok
      band_reset := by rw [hband, hconfig]; exact h.band_reset
      preset_reset := by rw [hpreset, hconfig]; exact h.preset_reset
      buf_bound := by rw [hbuf]; exact h.buf_bound
      events_ok := by rw [htrace, hconfig]; exact h.events_ok
      faults_recorded := by rw [htrace, hfault]; exact h.faults_recorded }

/-- What continues a state with good events keeps the invariant, as far as the buffer stays within its bound. -/
theorem Emits.inv {evs : List Event} {s t : State} (h : Emits evs s t) (hs : s.Inv) (hb : t.buf.length ≤ 257) :
    t.Inv where
  config_ok := by rw [h.config]; exact hs.config_ok
  band_reset := by rw [h.band, h.config]; exact hs.band_reset
  preset_reset := by rw [h.preset, h.config]; exact hs.preset_reset
  buf_bound := hb
  events_ok e he := by
    rw [h.trace, List.mem_append] at he
    rw [h.config]
    exact he.elim (hs.events_ok e) (h.events_ok e)
  faults_recorded := by rw [h.trace, List.filterMap_append, hs.faults_recorded, h.faults]

theorem loadConfig_inv {cfg : Config} (h : configOk cfg = true) (s : State) : (loadConfig cfg s).Inv where
  config_ok := h
  band_reset := rfl
  preset_reset := rfl
  buf_bound := Nat.zero_le _
  events_ok := fun _ he => nomatch he
  faults_recorded := rfl

/-- Every operation keeps the invariant. -/
theorem exec_keeps_inv {i : Instr} {s t : State} (hs : s.Inv) (h : exec i s = .next t) : t.Inv := by
  have hb := exec_buf_bound hs.buf_bound h
  obtain ⟨cfg, -, hc, rfl⟩ | ⟨u, evs, hu, -, rfl | ⟨-, a, rfl⟩ | ⟨-, rfl⟩⟩ := exec_cases h
  · exact loadConfig_inv hc s
  · exact hu.inv hs hb
  · exact (hu.inv hs hb).of_sameBlock (sameBlock_answerWith a u)
  · have hinv := hu.inv hs hb
    exact { hinv with }

/-- Settles O53: a step leaves the block, or is one operation on it, and every operation keeps the invariant. -/
theorem stepKeepsTheInvariant : Obligations.StepKeepsTheInvariant := by
  intro s t hs h
  obtain hsame | ⟨i, u, -, hu, hsame⟩ := step_takesBlockStep h
  · exact hs.of_sameBlock hsame
  · exact (exec_keeps_inv hs hu).of_sameBlock hsame

/-! ### Conservation -/

/-- The bytes of the stream in their order: what the trace accounts for, then the buffer, then the line (R125). -/
def streamOf (s : State) : List Byte := consumed s.trace ++ s.buf ++ s.line

theorem blockStep_conserves {s t : State} (h : blockStep s = .next t) : streamOf t = streamOf s := by
  obtain hn | ⟨b, rest, hl, hp⟩ | ⟨u, hu⟩ := enabled_cases s
  · cases h.symm.trans (blockStep_of_nothingEnabled hn)
    rfl
  · cases h.symm.trans (blockStep_of_push hl hp)
    simp [streamOf, pushNext, hl]
  · cases h.symm.trans (blockStep_of_frameStep hu)
    rw [streamOf, frameStep_conserves hu, frameStep_line hu, streamOf]

/-- Settles O23: with no control step and no new request, a step ends the FEED in progress or is the block's own. -/
theorem stepConservesTheByteStream : Obligations.StepConservesTheByteStream := by
  intro s t hu hreq h
  change streamOf t = streamOf s
  cases hf : s.feeding with
  | none => exact blockStep_conserves (s := s.afterSignal) ((step_of_idle hu hf (hreq hf)).symm.trans h)
  | some es =>
    have hfeed : feedStep es s.afterSignal = .next t := (step_of_feeding hu hf).symm.trans h
    rw [feedStep] at hfeed
    split at hfeed
    · cases hfeed
      rfl
    · obtain ⟨u, hblock, rfl⟩ := collectFeed_eq_next.1 hfeed
      exact (blockStep_conserves hblock : streamOf u = streamOf s.afterSignal)

end Sys2Proof.Machine
end

section
/-! Runs (spec/41_framer.md, Progress, R119; spec/70_reset_and_hazards.md, End of a run): a run of FEEDs comes to its
normal end, and FEED as single steps; O18 and O59. -/

namespace Sys2Proof.Machine

theorem steps_succ {s t : State} (h : step s = .next t) (n : Nat) : steps (n + 1) s = steps n t := by
  rw [steps, h]

theorem steps_one {s t : State} (h : step s = .next t) : steps 1 s = .next t := steps_succ h 0

theorem unsignalled_of_nil {s : State} (h : s.signals = []) : s.Unsignalled := fun c rest hs => by
  rw [h] at hs
  cases hs

theorem afterSignal_of_nil {s : State} (h : s.signals = []) : s.afterSignal = s := by
  rw [State.afterSignal, h, List.tail_nil, ← h]

/-! ### The normal end -/

/-- A running block with the room of WF6 whose host takes no control step and asks for FEEDs alone. -/
structure FeedsOnly (s : State) : Prop where
  running : s.Running
  cap : 257 ≤ s.config.bufCap
  signals : s.signals = []
  feeds : ∀ r ∈ s.requests, ∃ bs, r = .feed bs

/-- Bounds the steps to the normal end: a byte to offer is pushed and then leaves the buffer, a request is started and
then ended. -/
def stepsLeft (s : State) : Nat :=
  2 * s.leftToOffer.length + s.buf.length + 2 * s.requests.length + s.feeding.toList.length

/-- A step that either faults or comes nearer to the normal end. -/
def Advances (s t : State) : Prop := t.fault ≠ none ∨ (FeedsOnly t ∧ stepsLeft t < stepsLeft s)

theorem Advances.of_frameStep {s t : State} (h : FeedsOnly s) (ht : frameStep s = some t) : Advances s t := by
  obtain ⟨evs, hevs, -⟩ := frameStep_emits ht
  by_cases hf : t.fault = none
  swap
  · exact .inl hf
  refine .inr ⟨⟨⟨hf, hevs.stopped.trans h.running.2⟩, ?_, hevs.signals.trans h.signals, ?_⟩, ?_⟩
  · rw [hevs.config]
    exact h.cap
  · rw [hevs.requests]
    exact h.feeds
  · have := frameStep_length_lt ht
    rw [stepsLeft, stepsLeft, State.leftToOffer, State.leftToOffer, hevs.requests, hevs.feeding, frameStep_line ht]
    omega

theorem Advances.of_push {s : State} {b : Byte} {rest : List Byte} (h : FeedsOnly s) (hl : s.line = b :: rest) :
    Advances s (pushNext b rest s) := by
  refine .inr ⟨{ h with }, ?_⟩
  simp only [stepsLeft, State.leftToOffer, pushNext, bufPush_line, bufPush_buf, bufPush_requests, bufPush_feeding, hl,
    List.length_append, List.length_cons, List.length_nil]
  omega

/-- While a FEED is in progress, its events so far do not count. -/
theorem Advances.setFeeding {s t : State} {es : List Event} (h : Advances s t) (hf : t.feeding = some es)
    (fs : List Event) : Advances s (setFeeding (some fs) t) := by
  obtain h | ⟨hfeeds, hlt⟩ := h
  · exact .inl h
  · refine .inr ⟨{ hfeeds with }, lt_of_eq_of_lt ?_ hlt⟩
    simp only [stepsLeft, hf]
    rfl

theorem Advances.of_beginFeed {s : State} {bs : List Byte} {rest : List Request} (h : FeedsOnly s)
    (hf : s.feeding = none) (hr : s.requests = .feed bs :: rest) :
    Advances s (beginFeed bs (setRequests rest s)) := by
  have hfeeds : ∀ r ∈ rest, ∃ bs, r = .feed bs := fun r hmem =>
    h.feeds r (by rw [hr]; exact List.mem_cons_of_mem _ hmem)
  have hbefore : stepsLeft s =
      2 * (s.line ++ (bs ++ rest.flatMap Request.offers)).length + s.buf.length + 2 * (rest.length + 1) := by
    simp [stepsLeft, State.leftToOffer, hr, hf, Request.offers]
  rw [Advances, hbefore]
  cases bs with
  | nil =>
    refine .inr ⟨{ h with feeds := hfeeds }, ?_⟩
    have hafter : stepsLeft (beginFeed [] (setRequests rest s)) =
        2 * (s.line ++ rest.flatMap Request.offers).length + s.buf.length + 2 * rest.length := by
      simp [stepsLeft, State.leftToOffer, beginFeed, hf]
    rw [hafter, List.nil_append]
    omega
  | cons b bs =>
    refine .inr ⟨{ h with feeds := hfeeds }, ?_⟩
    have hafter : stepsLeft (beginFeed (b :: bs) (setRequests rest s)) =
        2 * (s.line ++ (b :: bs) ++ rest.flatMap Request.offers).length + s.buf.length + 2 * rest.length + 1 := by
      simp [stepsLeft, State.leftToOffer, beginFeed]
    rw [hafter, List.append_assoc]
    omega

/-- Where nothing is enabled and the host has nothing more to ask for, the run is at its normal end. -/
theorem FeedsOnly.normalEnd {s : State} (h : FeedsOnly s) (hr : s.requests = []) (hn : nothingEnabled s = true) :
    s.NormalEnd := by
  obtain ⟨hq, hl⟩ := ((nothingEnabled_iff s).1 hn).resolve_left (not_not_intro h.running)
  have hlen := length_le_of_quiescent hq
  have hroom : pushEnabled s = true := (pushEnabled_iff s).2 ⟨h.running, hq, by have := h.cap; omega⟩
  have hline : s.line = [] := hl.resolve_right (by simp [hroom])
  exact ⟨hq, h.running.1, by rw [State.leftToOffer, hline, hr]; rfl⟩

theorem FeedsOnly.step {s : State} (h : FeedsOnly s) (hend : ¬ s.NormalEnd) :
    ∃ t, step s = .next t ∧ Advances s t := by
  have hu := unsignalled_of_nil h.signals
  have hs := afterSignal_of_nil h.signals
  cases hf : s.feeding with
  | some es =>
    have hstep := step_of_feeding hu hf
    rw [hs] at hstep
    obtain hn | ⟨b, rest, hl, hp⟩ | ⟨t, ht⟩ := enabled_cases s
    · refine ⟨_, hstep.trans (feedStep_of_nothingEnabled hn es), .inr ⟨{ h with }, ?_⟩⟩
      simp [stepsLeft, State.leftToOffer, endFeed, hf]
    · exact ⟨_, hstep.trans (feedStep_of_push hl hp es), (Advances.of_push h hl).setFeeding hf es⟩
    · obtain ⟨evs, hevs, -⟩ := frameStep_emits ht
      exact ⟨_, hstep.trans (feedStep_of_frameStep ht es),
        (Advances.of_frameStep h ht).setFeeding (hevs.feeding.trans hf) _⟩
  | none =>
    cases hr : s.requests with
    | cons r rest =>
      obtain ⟨bs, rfl⟩ := h.feeds r (by simp [hr])
      have hstep := step_of_request hu hf hr
      rw [hs] at hstep
      exact ⟨_, hstep, Advances.of_beginFeed h hf hr⟩
    | nil =>
      have hstep := step_of_idle hu hf hr
      rw [hs] at hstep
      obtain hn | ⟨b, rest, hl, hp⟩ | ⟨t, ht⟩ := enabled_cases s
      · exact absurd (h.normalEnd hr hn) hend
      · exact ⟨_, hstep.trans (blockStep_of_push hl hp), Advances.of_push h hl⟩
      · exact ⟨_, hstep.trans (blockStep_of_frameStep ht), Advances.of_frameStep h ht⟩

theorem FeedsOnly.run {s : State} (h : FeedsOnly s) :
    ∃ n t, steps n s = .next t ∧ (t.NormalEnd ∨ t.fault ≠ none) := by
  by_cases hend : s.NormalEnd
  · exact ⟨0, s, rfl, .inl hend⟩
  obtain ⟨t, ht, hfault | ⟨hfeeds, hlt⟩⟩ := h.step hend
  · exact ⟨1, t, steps_one ht, .inr hfault⟩
  · obtain ⟨n, u, hn, hu⟩ := hfeeds.run
    exact ⟨n + 1, u, (steps_succ ht n).trans hn, hu⟩
termination_by stepsLeft s

/-- Settles O18: `runToQuiescence` is a run of FSTEPs, and every step of a run of FEEDs advances it. -/
theorem fstepsReachQuiescence : Obligations.FstepsReachQuiescence := by
  refine ⟨fun s hr => ?_, fun s hr hcap hs hreq => FeedsOnly.run ⟨hr, hcap, hs, hreq⟩⟩
  obtain ⟨n, hn, hsteps⟩ := fsteps_runToQuiescence s
  exact ⟨n, _, hn, hsteps, runToQuiescence_quiescent_or_fault hr⟩

/-! ### FEED as single steps -/

/-- Where the single steps of a FEED in progress come to: its bytes on the line offered, and PF run to quiescence. -/
def feedEnd (s : State) : State := runToQuiescence (feedBytes s.line (takeLine s))

theorem feedResults_trans {es fs : List Event} {s t u : State} (h : t.trace = s.trace ++ es)
    (g : u.trace = t.trace ++ fs) : feedResults s t ++ feedResults t u = feedResults s u := by
  rw [feedResults_of_append h, feedResults_of_append g,
    feedResults_of_append (g.trans (by rw [h, List.append_assoc])), List.filter_append]

theorem feedEnd_emits (s : State) : ∃ evs, Emits evs s (feedEnd s) := by
  obtain ⟨es, hes⟩ := feedBytes_emits s.line (takeLine s)
  obtain ⟨fs, hfs⟩ := runToQuiescence_emits (feedBytes s.line (takeLine s))
  exact ⟨_, (Emits.takeLine s).trans (hes.trans hfs)⟩

theorem feedEnd_setFeeding (f : Option (List Event)) (s : State) :
    feedEnd (setFeeding f s) = setFeeding f (feedEnd s) := by
  have hbytes : feedBytes s.line (takeLine (setFeeding f s)) = setFeeding f (feedBytes s.line (takeLine s)) :=
    feedBytes_map (hostWrite_setFeeding f) (fun _ _ => rfl) s.line (takeLine s)
  rw [feedEnd, setFeeding_line, hbytes, runToQuiescence_map (hostWrite_setFeeding f), feedEnd]

/-- FEED, and then PF run to quiescence, does not see how far PF is when it begins. -/
theorem runToQuiescence_feedBytes_congr {s t : State} (h : runToQuiescence s = runToQuiescence t) (bs : List Byte) :
    runToQuiescence (feedBytes bs s) = runToQuiescence (feedBytes bs t) := by
  cases bs with
  | nil => exact h
  | cons b bs =>
    rw [← feedBytes_runToQuiescence (List.cons_ne_nil b bs), h, feedBytes_runToQuiescence (List.cons_ne_nil b bs)]

theorem feedEnd_of_nothingEnabled {s : State} (h : nothingEnabled s = true) : feedEnd s = s := by
  have hs : frameStep s = none := frameStep_of_nothingEnabled h
  have htake : frameStep (takeLine s) = none := by
    rw [frameStep_map hostWrite_takeLine, hs]
    rfl
  have hbytes : feedBytes s.line (takeLine s) = s := by
    by_cases hl : s.line = []
    · rw [hl, feedBytes, takeLine_of_line_eq_nil hl]
    · have hp : ¬ pushEnabled (takeLine s) = true := fun hp => by
        obtain hn | ⟨-, he | he⟩ := (nothingEnabled_iff s).1 h
        · exact hn (running_of_pushEnabled hp)
        · exact hl he
        · exact Bool.false_ne_true (he.symm.trans hp)
      rw [feedBytes_of_blocked htake hp]
      rfl
  rw [feedEnd, hbytes, runToQuiescence_of_frameStep_eq_none hs]

theorem feedEnd_of_frameStep {s t : State} (h : frameStep s = some t) : feedEnd s = feedEnd t := by
  have htake : frameStep (takeLine s) = some (takeLine t) := by
    rw [frameStep_map hostWrite_takeLine, h]
    rfl
  rw [feedEnd, feedEnd, frameStep_line h]
  exact runToQuiescence_feedBytes_congr (runToQuiescence_of_frameStep htake) s.line

theorem feedEnd_of_push {s : State} {b : Byte} {rest : List Byte} (hl : s.line = b :: rest)
    (hp : pushEnabled s = true) : feedEnd s = feedEnd (pushNext b rest s) := by
  have hnone : frameStep (takeLine s) = none := frameStep_eq_none.2 (.inr (quiescent_of_pushEnabled hp))
  have hstay := runToQuiescence_of_frameStep_eq_none hnone
  have hp' : pushEnabled (runToQuiescence (takeLine s)) = true := by rwa [hstay]
  rw [feedEnd, hl, feedBytes_cons_of_enabled hp', hstay]
  exact runToQuiescence_feedBytes_congr (runToQuiescence_idem (bufPush b (takeLine s))) rest

/-- The single steps of a FEED in progress, left alone, end where `feedEnd` says, with all its events. -/
theorem steps_of_feeding {s : State} {es : List Event} (hs : s.signals = []) (hf : s.feeding = some es) :
    ∃ n, steps n s = .next (endFeed (es ++ feedResults s (feedEnd s)) (feedEnd s)) := by
  have hstep := step_of_feeding (unsignalled_of_nil hs) hf
  rw [afterSignal_of_nil hs] at hstep
  obtain hn | ⟨b, rest, hl, hp⟩ | ⟨t, ht⟩ := enabled_cases s
  · refine ⟨1, ?_⟩
    rw [steps_one (hstep.trans (feedStep_of_nothingEnabled hn es)), feedEnd_of_nothingEnabled hn,
      feedResults_of_append (evs := []) (List.append_nil _).symm, List.filter_nil, List.append_nil]
  · obtain ⟨n, hn⟩ := steps_of_feeding (s := setFeeding (some es) (pushNext b rest s)) (es := es) hs rfl
    refine ⟨n + 1, ?_⟩
    rw [steps_succ (hstep.trans (feedStep_of_push hl hp es)), hn, feedEnd_setFeeding, feedEnd_of_push hl hp]
    rfl
  · obtain ⟨evs, hevs, -⟩ := frameStep_emits ht
    obtain ⟨more, hmore⟩ := feedEnd_emits t
    obtain ⟨n, hn⟩ := steps_of_feeding (s := setFeeding (some (es ++ feedResults s t)) t)
      (es := es ++ feedResults s t) (hevs.signals.trans hs) rfl
    refine ⟨n + 1, ?_⟩
    rw [steps_succ (hstep.trans (feedStep_of_frameStep ht es)), hn, feedEnd_setFeeding, feedEnd_of_frameStep ht,
      ← feedResults_trans hevs.trace hmore.trace, ← List.append_assoc]
    rfl
termination_by 2 * s.line.length + s.buf.length
decreasing_by
  · simp only [setFeeding_line, setFeeding_buf, pushNext, bufPush_line, bufPush_buf, hl, List.length_append,
      List.length_cons, List.length_nil]
    omega
  · have := frameStep_length_lt ht
    simp only [setFeeding_line, setFeeding_buf, frameStep_line ht]
    omega

/-- The first step starts the call, and the steps of the call end where the uninterrupted sequence does. -/
theorem feed_request_runs {s : State} {bs : List Byte} {rest : List Request} (hs : s.signals = [])
    (hf : s.feeding = none) (hr : s.requests = .feed bs :: rest) :
    ∃ n t, exec (.feed bs) { s with requests := rest } = .next t ∧ steps n s = .next t := by
  have hstep := step_of_request (unsignalled_of_nil hs) hf hr
  rw [afterSignal_of_nil hs] at hstep
  by_cases hbs : bs = []
  · subst hbs
    exact ⟨1, _, rfl, steps_one hstep⟩
  have hbegin : step s = .next (setFeeding (some []) (holdOnLine bs (setRequests rest s))) := by
    rw [hstep]
    cases bs with
    | nil => exact absurd rfl hbs
    | cons b bs => rfl
  have hend : feedEnd (holdOnLine bs (setRequests rest s)) =
      feedBytes (s.line ++ bs) (takeLine (setRequests rest s)) :=
    runToQuiescence_feedBytes (fun h => hbs (List.append_eq_nil_iff.1 h).2) (takeLine (setRequests rest s))
  obtain ⟨evs, hevs⟩ := feedBytes_emits (s.line ++ bs) (takeLine (setRequests rest s))
  have hnone : setFeeding none (feedBytes (s.line ++ bs) (takeLine (setRequests rest s))) =
      feedBytes (s.line ++ bs) (takeLine (setRequests rest s)) := by
    rw [setFeeding, ← hevs.feeding.trans hf]
  obtain ⟨n, hn⟩ := steps_of_feeding (s := setFeeding (some []) (holdOnLine bs (setRequests rest s))) hs rfl
  rw [feedEnd_setFeeding, hend, List.nil_append] at hn
  refine ⟨n + 1, _, execFeed_of_ne_nil hbs (setRequests rest s), ?_⟩
  rw [steps_succ hbegin, hn, endFeed]
  exact congrArg _ (congrArg _ hnone)

/-- RESET as the very next step after the one that halted the block or filled the buffer ends the call first. -/
theorem reset_ends_feed {s : State} {es : List Event} {cfg : Config} {rest : List (Option Control)}
    (hf : s.feeding = some es) (ho : s.FeedOver) (hc : configOk cfg = true)
    (hs : s.signals = some (.reset cfg) :: rest) :
    step s = .next (loadConfig cfg (endFeed es (setSignals rest s))) :=
  (step_of_signal_over hs hf ho).trans (exec_reset_of_configOk hc _)

/-- STOP and then RESET: the call ends at the STOP where it was over, and at the RESET where the STOP has halted the
block. -/
theorem stop_reset_ends_feed {s : State} {es : List Event} {cfg : Config} {rest : List (Option Control)}
    (hf : s.feeding = some es) (hr : s.Running) (hc : configOk cfg = true)
    (hs : s.signals = some .stop :: some (.reset cfg) :: rest) :
    ∃ t, steps 2 s = .next t ∧ t.SameBlock (loadConfig cfg s) ∧ t.feeding = none ∧ t.answer = some (.fed es) ∧
      t.line = s.line := by
  have stop_of_running {u : State} (hu : u.Running) : exec .stop u = .next (setStopped u) := by
    rw [exec_stop_eq, whenRunning_of_running hu]
  by_cases ho : s.FeedOver
  · have hstop : step s = .next (setStopped (endFeed es (setSignals (some (.reset cfg) :: rest) s))) :=
      (step_of_signal_over hs hf ho).trans (stop_of_running hr)
    have hreset := (step_of_signal_not_over
      (s := setStopped (endFeed es (setSignals (some (.reset cfg) :: rest) s))) rfl (.inl rfl)).trans
        (exec_reset_of_configOk hc _)
    exact ⟨_, (steps_succ hstop 1).trans (steps_one hreset), sameBlock_refl _, rfl, rfl, rfl⟩
  · have hstop : step s = .next (setStopped (setSignals (some (.reset cfg) :: rest) s)) :=
      (step_of_signal_not_over hs (.inr ho)).trans (stop_of_running hr)
    have hhalted : ¬ (setStopped (setSignals (some (.reset cfg) :: rest) s)).Running := not_running_of_stopped rfl
    have hreset := reset_ends_feed (s := setStopped (setSignals (some (.reset cfg) :: rest) s)) hf (.inl hhalted) hc
      rfl
    exact ⟨_, (steps_succ hstop 1).trans (steps_one hreset), sameBlock_refl _, rfl, rfl, rfl⟩

/-- Settles O59: the run of the call, its early ends, and its single steps by what is enabled. -/
theorem feedRunsAsSingleSteps : Obligations.FeedRunsAsSingleSteps := by
  refine ⟨fun s bs rest => feed_request_runs, fun s es hf ho => ⟨fun hu => ?ends, fun cfg rest hc hs => ?reset⟩,
    fun s es cfg rest => stop_reset_ends_feed,
    fun s es hu hf => ⟨fun hr hq => ?fstep, fun hr hq hcap b rest hl => ?push⟩⟩
  case ends =>
    rw [step_of_feeding hu hf, feedStep_of_nothingEnabled ((feedOver_iff s.afterSignal).1 ho)]
    rfl
  case reset => exact ⟨_, reset_ends_feed hf ho hc hs, sameBlock_refl _, rfl, rfl, rfl⟩
  case fstep =>
    obtain ⟨t, ht⟩ := frameStep_isSome (s := s.afterSignal) hr hq
    obtain ⟨evs, hevs, -⟩ := frameStep_emits ht
    refine ⟨t, evs, exec_fstep_eq_next.2 ht, hevs.trace, ?_⟩
    rw [step_of_feeding hu hf, feedStep_of_frameStep ht, feedResults_of_append hevs.trace]
    rfl
  case push =>
    have hp : pushEnabled s.afterSignal = true := (pushEnabled_iff s.afterSignal).2 ⟨hr, hq, hcap⟩
    rw [step_of_feeding hu hf, feedStep_of_push (s := s.afterSignal) hl hp, setFeeding, ← hf]
    rfl

end Sys2Proof.Machine
end
